-- ==== Sys2Proof/Word.lean ====
section
/-! DEFINITION. The bit-vector types of the wires (00_scope.md R12, 30_encoding.md R110 to R119). -/

namespace Sys2Proof

/-- One byte of carried data (R36). -/
abbrev Byte := BitVec 8

/-- An address of `ADDR_W = 32` bits, naming one byte (R10, R71). -/
abbrev Addr := BitVec 32

/-- The control word `CW[15:0]` of an M2S message (R111). -/
abbrev ControlWord := BitVec 16

/-- A size code, `0 .. 7` (R32, R114). -/
abbrev SizeCode := BitVec 3

/-- A burst code, `0 .. 7`; 0 is a single transfer (R34, R115). -/
abbrev BurstCode := BitVec 3

end Sys2Proof
end

