-- ==== Sys2Proof/Syntax.lean ====
section
/-! DEFINITION. The messages on the ports (10_state.md section 2, 30_encoding.md) and `Instr`, the one inductive
with a constructor per row of spec/opcode_table.json. -/

namespace Sys2Proof

/-- Protection bits (R33). Only `bufferable` and `cacheable` have an effect in the block; `data` and `priv` are
carried (R116, R403). -/
structure Prot where
  data : Bool
  priv : Bool
  bufferable : Bool
  cacheable : Bool
  deriving DecidableEq, Repr

/-- The data carrier (R36): absent, or bytes `b[0] .. b[n-1]`, the width being the number of bytes. -/
inductive BusValue where
  | absent
  | bytes (b : List Byte)
  deriving DecidableEq, Repr

/-- The kind of a transfer (R34): only `single` is supported. -/
inductive Kind where
  | single
  | busy
  | seq
  deriving DecidableEq, Repr

/-- The fields of a transfer's address phase (R34). Direction is `write` (C7). -/
structure Xfer where
  kind : Kind
  write : Bool
  size : SizeCode
  burst : BurstCode
  prot : Prot
  lock : Bool
  addr : Addr
  deriving DecidableEq, Repr

/-- Address-phase control (R34). -/
inductive Ctl where
  | idle
  | noSel
  | xfer (x : Xfer)
  deriving DecidableEq, Repr

/-- An address phase (R35). `tag` is for tracing only; no rule reads it (D27). -/
structure AP where
  ctl : Ctl
  ready : Bool
  tag : Option Nat
  deriving DecidableEq, Repr

/-- Response status (R37). -/
inductive Status where
  | success
  | pending
  | error1
  | error2
  deriving DecidableEq, Repr

/-- A response on a link (R37). -/
structure Resp where
  status : Status
  data : BusValue
  deriving DecidableEq, Repr

/-- The master-to-slave bundle: the address phase of the transfer offered and the write data of the transfer in
data phase (R38). -/
structure M2S where
  ap : AP
  dp : BusValue
  deriving DecidableEq, Repr

/-- The grant signal (R38, R118). -/
inductive Grant where
  | grant
  | deny
  deriving DecidableEq, Repr

/-- The operands every transfer command has: the `READY` flag, the protection bits, the address, and the write data
the master drives in the same cycle for the transfer now in its data phase (R38, R111). -/
structure Cmd where
  ready : Bool
  prot : Prot
  addr : Addr
  dp : BusValue
  deriving DecidableEq, Repr

/-- The messages of the ports: one constructor per row of spec/opcode_table.json, in the table's order. The operands
are the bits of the row that R123 to R125 do not fix or ignore, with `ADDR` and the data carrier of the bundle. -/
inductive Instr where
  /-- NOSEL (R154) -/
  | nosel (ready : Bool) (dp : BusValue)
  /-- IDLE (R153) -/
  | idle (ready : Bool) (dp : BusValue)
  /-- BUSY (R167) -/
  | busy (write : Bool) (size : SizeCode) (burst : BurstCode) (lock : Bool) (c : Cmd)
  /-- SEQ (R168) -/
  | seq (write : Bool) (size : SizeCode) (burst : BurstCode) (lock : Bool) (c : Cmd)
  /-- NONSEQ.BURST1, INCR (R169) -/
  | burst1 (write : Bool) (size : SizeCode) (lock : Bool) (c : Cmd)
  /-- NONSEQ.BURST2, WRAP4 (R169) -/
  | burst2 (write : Bool) (size : SizeCode) (lock : Bool) (c : Cmd)
  /-- NONSEQ.BURST3, INCR4 (R169) -/
  | burst3 (write : Bool) (size : SizeCode) (lock : Bool) (c : Cmd)
  /-- NONSEQ.BURST4, WRAP8 (R169) -/
  | burst4 (write : Bool) (size : SizeCode) (lock : Bool) (c : Cmd)
  /-- NONSEQ.BURST5, INCR8 (R169) -/
  | burst5 (write : Bool) (size : SizeCode) (lock : Bool) (c : Cmd)
  /-- NONSEQ.BURST6, WRAP16 (R169) -/
  | burst6 (write : Bool) (size : SizeCode) (lock : Bool) (c : Cmd)
  /-- NONSEQ.BURST7, INCR16 (R169) -/
  | burst7 (write : Bool) (size : SizeCode) (lock : Bool) (c : Cmd)
  /-- NONSEQ.LOCK (R170) -/
  | lock (write : Bool) (size : SizeCode) (c : Cmd)
  /-- NONSEQ.SIZE5 (R171) -/
  | size5 (write : Bool) (c : Cmd)
  /-- NONSEQ.SIZE6 (R171) -/
  | size6 (write : Bool) (c : Cmd)
  /-- NONSEQ.SIZE7 (R171) -/
  | size7 (write : Bool) (c : Cmd)
  /-- RD.B (R156) -/
  | rdB (c : Cmd)
  /-- RD.H (R157) -/
  | rdH (c : Cmd)
  /-- RD.W (R158) -/
  | rdW (c : Cmd)
  /-- RD.D (R159) -/
  | rdD (c : Cmd)
  /-- RD.Q (R160) -/
  | rdQ (c : Cmd)
  /-- WR.B (R162) -/
  | wrB (c : Cmd)
  /-- WR.H (R163) -/
  | wrH (c : Cmd)
  /-- WR.W (R164) -/
  | wrW (c : Cmd)
  /-- WR.D (R165) -/
  | wrD (c : Cmd)
  /-- WR.Q (R166) -/
  | wrQ (c : Cmd)
  /-- SUCCESS (R172) -/
  | success (data : BusValue)
  /-- PENDING (R173) -/
  | pending (data : BusValue)
  /-- ERROR1 (R174) -/
  | error1 (data : BusValue)
  /-- ERROR2 (R175) -/
  | error2 (data : BusValue)
  /-- GRANT (R176) -/
  | grant
  /-- DENY (R177) -/
  | deny
  deriving DecidableEq, Repr

/-- The bits on an M2S port (R110, R111, R119): the control word, the address, the width tag and the payload. -/
structure M2SBits where
  cw : ControlWord
  addr : Addr
  wt : BitVec 3
  d : BitVec 128
  deriving DecidableEq, Repr

/-- The bits on an S2M port (R110, R117, R119): the response word, the width tag and the payload. -/
structure S2MBits where
  rw : BitVec 2
  wt : BitVec 3
  d : BitVec 128
  deriving DecidableEq, Repr

/-- The bits on the port in focus, in that port's format (R110): there is no other format, and no mode bit. -/
inductive PortBits where
  | m2s (b : M2SBits)
  | s2m (b : S2MBits)
  | gnt (b : BitVec 1)
  deriving DecidableEq, Repr

end Sys2Proof
end

