-- ==== Sys2Proof/Config.lean ====
section
/-! DEFINITION. The configuration record `Cfg` (00_scope.md R10), fixed at reset, and the example of 47_interconnect.md
R367. Masters and slaves are named by their place in MASTERS and SLAVES (log entry 4). Which configurations have a
model is in Sys2Proof/Machine/Decoder.lean. -/

namespace Sys2Proof

/-- One half-open range `[base, base + size)` of a decoder table, and the slave it selects (R10). -/
structure Range where
  base : Nat
  size : Nat
  slave : Nat
  deriving DecidableEq, Repr

/-- What a decoder does with an address no range covers (R10, D12). -/
inductive Unmapped where
  | defaultSlave
  | noTarget
  deriving DecidableEq, Repr

/-- The arbiter variant of an output stage (R10, 42_arbiter.md). -/
inductive ArbKind where
  | singleMaster (m : Nat)
  | rejecting
  | roundRobin
  | fixedPriority
  | combFixed
  | combFixedReversed
  deriving DecidableEq, Repr

/-- An entry of `CHAIN[s]` (R10): a line buffer of `L` bytes with its enable at reset, or a write buffer. -/
inductive Adapter where
  | lb (L : Nat) (en0 : Bool)
  | wb
  deriving DecidableEq, Repr

/-- The parameters of one master: its decoder table, its unmapped policy and the width of its link (R10). -/
structure MasterCfg where
  ranges : List Range
  unmapped : Unmapped
  linkBytes : Nat
  deriving DecidableEq, Repr

/-- The parameters of one slave: its arbiter, the chain of adapters from the output stage down, and the width of the
link below the output stage (R10). The widths below follow: `L` below a line buffer (R290), unchanged below a write
buffer (R320). -/
structure SlaveCfg where
  arb : ArbKind
  chain : List Adapter
  linkBytes : Nat
  deriving DecidableEq, Repr

/-- The configuration record (R10). -/
structure Cfg where
  w16 : Bool
  masters : List MasterCfg
  slaves : List SlaveCfg
  deriving DecidableEq, Repr

/-- A master index outside MASTERS has no ranges and no default slave. -/
def MasterCfg.absent : MasterCfg := { ranges := [], unmapped := .noTarget, linkBytes := 0 }

/-- A slave index outside SLAVES has no adapters and accepts nobody. -/
def SlaveCfg.absent : SlaveCfg := { arb := .rejecting, chain := [], linkBytes := 0 }

/-- The parameters of master `m`. -/
def Cfg.master (c : Cfg) (m : Nat) : MasterCfg := c.masters.getD m .absent

/-- The parameters of slave `s`. -/
def Cfg.slave (c : Cfg) (s : Nat) : SlaveCfg := c.slaves.getD s .absent

/-- `NM`, the number of masters (R10). -/
def Cfg.nm (c : Cfg) : Nat := c.masters.length

/-- `NS`, the number of slaves (R10). -/
def Cfg.ns (c : Cfg) : Nat := c.slaves.length

/-- The example configuration of R367: MASTERS = [IBUS, DBUS, DMA], SLAVES = [FLASH, SRAM, PERIPH]. `W16` is left open
there; its links are 4 and 8 bytes wide, so `W16 = false`. DESIGN CHOICE (log entry 3). -/
def exampleCfg : Cfg :=
  let flash : Range := { base := 0x00000000, size := 0x00020000, slave := 0 }
  let sram : Range := { base := 0x20000000, size := 0x00005000, slave := 1 }
  let periph : Range := { base := 0x40000000, size := 0x10000000, slave := 2 }
  { w16 := false
    masters :=
      [{ ranges := [flash], unmapped := .defaultSlave, linkBytes := 4 },
       { ranges := [flash, sram, periph], unmapped := .defaultSlave, linkBytes := 4 },
       { ranges := [flash, sram, periph], unmapped := .defaultSlave, linkBytes := 4 }]
    slaves :=
      [{ arb := .roundRobin, chain := [.lb 8 true], linkBytes := 4 },
       { arb := .fixedPriority, chain := [.wb], linkBytes := 4 },
       { arb := .fixedPriority, chain := [], linkBytes := 4 }] }

end Sys2Proof
end

