-- ==== Sys2Proof/WellFormed.lean ====
section
/-! DEFINITION. Which terms of `Instr` are messages a port can carry: every field but the data carrier is legal by
its type, and a data carrier has one of the widths of R36. (The checks of 30_encoding.md R121, which the MACHINE makes
and which name its faults, stand in Sys2Proof/Machine/InputStage.lean.) -/

namespace Sys2Proof

/-- R36, R119: the width of a data carrier is 1, 2, 4, 8 or 16 bytes, or it is absent. That 16 needs `W16` is a condition
on the configuration, which an encoding does not see: the link monitors test it (`carrierExists`, R394). -/
def BusValue.wf : BusValue → Bool
  | .absent => true
  | .bytes b => b.length == 1 || b.length == 2 || b.length == 4 || b.length == 8 || b.length == 16

/-- The data carrier an instruction has, if its format has one (R110). -/
def Instr.carrier : Instr → Option BusValue
  | .nosel _ dp => some dp
  | .idle _ dp => some dp
  | .busy _ _ _ _ c => some c.dp
  | .seq _ _ _ _ c => some c.dp
  | .burst1 _ _ _ c => some c.dp
  | .burst2 _ _ _ c => some c.dp
  | .burst3 _ _ _ c => some c.dp
  | .burst4 _ _ _ c => some c.dp
  | .burst5 _ _ _ c => some c.dp
  | .burst6 _ _ _ c => some c.dp
  | .burst7 _ _ _ c => some c.dp
  | .lock _ _ c => some c.dp
  | .size5 _ c => some c.dp
  | .size6 _ c => some c.dp
  | .size7 _ c => some c.dp
  | .rdB c => some c.dp
  | .rdH c => some c.dp
  | .rdW c => some c.dp
  | .rdD c => some c.dp
  | .rdQ c => some c.dp
  | .wrB c => some c.dp
  | .wrH c => some c.dp
  | .wrW c => some c.dp
  | .wrD c => some c.dp
  | .wrQ c => some c.dp
  | .success data => some data
  | .pending data => some data
  | .error1 data => some data
  | .error2 data => some data
  | .grant => none
  | .deny => none

/-- A well-formed instruction: its data carrier, if it has one, has a width of R36. -/
def Instr.wf (i : Instr) : Bool :=
  match i.carrier with
  | some v => v.wf
  | none => true

end Sys2Proof
end

