-- ==== Sys2Proof/Decode.lean ====
section
/-! DEFINITION. The decoder of port messages (30_encoding.md R111 to R125) and, after it, the encoder. The decoder is
total on any bits; it rejects, by name, only the width tags R119 says are never driven. -/

namespace Sys2Proof

/-- Why bits are no message (I10: the tags 110 and 111 are never driven; refused if presented as raw bits). -/
inductive DecodeError where
  | reservedWidthTag (wt : BitVec 3)
  deriving DecidableEq, Repr

/-- The `n` low bytes of a payload, byte 0 in `D[7:0]` (R72, R119). -/
def payloadBytes (n : Nat) (d : BitVec 128) : List Byte :=
  (List.range n).map fun i => d.extractLsb' (8 * i) 8

/-- The payload whose byte `i` is the `i`-th byte of the list (R72, R119). -/
def bytesPayload : List Byte → BitVec 128
  | [] => 0
  | b :: bs => (bytesPayload bs <<< 8) ||| b.setWidth 128

/-- The data carrier of a width tag and payload (R119). Bits of the payload above the width are not driven. -/
def decodeBusValue (wt : BitVec 3) (d : BitVec 128) : Except DecodeError BusValue :=
  match wt.toNat with
  | 0 => .ok .absent
  | 1 => .ok (.bytes (payloadBytes 1 d))
  | 2 => .ok (.bytes (payloadBytes 2 d))
  | 3 => .ok (.bytes (payloadBytes 4 d))
  | 4 => .ok (.bytes (payloadBytes 8 d))
  | 5 => .ok (.bytes (payloadBytes 16 d))
  | _ => .error (.reservedWidthTag wt)

/-- `HTRANS`, `CW[2:1]` (R111, R113). -/
def cwTrans (cw : ControlWord) : BitVec 2 := cw.extractLsb' 1 2

/-- `HSIZE`, `CW[6:4]` (R111, R114). -/
def cwSize (cw : ControlWord) : SizeCode := cw.extractLsb' 4 3

/-- `HBURST`, `CW[9:7]` (R111, R115). -/
def cwBurst (cw : ControlWord) : BurstCode := cw.extractLsb' 7 3

/-- `HPROT[3:0]`, `CW[13:10]` (R111, R116). -/
def cwProt (cw : ControlWord) : Prot :=
  { data := cw.getLsbD 10, priv := cw.getLsbD 11, bufferable := cw.getLsbD 12, cacheable := cw.getLsbD 13 }

/-- `decodeCtl` of R120: the abstract address phase of a control word and an address. -/
def decodeCtl (cw : ControlWord) (addr : Addr) : AP :=
  let ctl :=
    if cw.getLsbD 0 = false then Ctl.noSel
    else if cwTrans cw = 0 then Ctl.idle
    else Ctl.xfer
      { kind := if cwTrans cw = 2 then .single else if cwTrans cw = 1 then .busy else .seq
        write := cw.getLsbD 3
        size := cwSize cw
        burst := cwBurst cw
        prot := cwProt cw
        lock := cw.getLsbD 14
        addr := addr }
  { ctl := ctl, ready := cw.getLsbD 15, tag := none }

/-- The row of a NONSEQ word, in the order of R121 and R123: burst, lock, reserved size, then reads and writes. -/
def decodeNonseq (burst : BurstCode) (lock : Bool) (size : SizeCode) (write : Bool) (c : Cmd) : Instr :=
  match burst.toNat with
  | 1 => .burst1 write size lock c
  | 2 => .burst2 write size lock c
  | 3 => .burst3 write size lock c
  | 4 => .burst4 write size lock c
  | 5 => .burst5 write size lock c
  | 6 => .burst6 write size lock c
  | 7 => .burst7 write size lock c
  | _ =>
    match lock, size.toNat, write with
    | true, _, w => .lock w size c
    | false, 0, false => .rdB c
    | false, 1, false => .rdH c
    | false, 2, false => .rdW c
    | false, 3, false => .rdD c
    | false, 4, false => .rdQ c
    | false, 0, true => .wrB c
    | false, 1, true => .wrH c
    | false, 2, true => .wrW c
    | false, 3, true => .wrD c
    | false, 4, true => .wrQ c
    | false, 5, w => .size5 w c
    | false, 6, w => .size6 w c
    | false, _, w => .size7 w c

/-- The row of a control word, in the order a decoder tests it (R123), with the write data of the bundle. -/
def decodeCommand (cw : ControlWord) (addr : Addr) (dp : BusValue) : Instr :=
  let c : Cmd := { ready := cw.getLsbD 15, prot := cwProt cw, addr := addr, dp := dp }
  if cw.getLsbD 0 = false then .nosel (cw.getLsbD 15) dp
  else match (cwTrans cw).toNat with
    | 0 => .idle (cw.getLsbD 15) dp
    | 1 => .busy (cw.getLsbD 3) (cwSize cw) (cwBurst cw) (cw.getLsbD 14) c
    | 2 => decodeNonseq (cwBurst cw) (cw.getLsbD 14) (cwSize cw) (cw.getLsbD 3) c
    | _ => .seq (cw.getLsbD 3) (cwSize cw) (cwBurst cw) (cw.getLsbD 14) c

/-- The row of a response word (R117): all four codes are used. -/
def decodeResponse (rw : BitVec 2) (data : BusValue) : Instr :=
  match rw.toNat with
  | 0 => .pending data
  | 1 => .success data
  | 2 => .error1 data
  | _ => .error2 data

/-- The row of a grant bit (R118). -/
def decodeGrant (b : BitVec 1) : Instr := if b.getLsbD 0 then .grant else .deny

/-- The decoder: the instruction the bits of a port are, or why they are none (R110 to R120). -/
def decode : PortBits → Except DecodeError Instr
  | .m2s b => (decodeBusValue b.wt b.d).map (decodeCommand b.cw b.addr)
  | .s2m b => (decodeBusValue b.wt b.d).map (decodeResponse b.rw)
  | .gnt b => .ok (decodeGrant b)

/-! The encoder, from the same tables. -/

/-- The width tag and payload of a data carrier (R119). -/
def encodeBusValue : BusValue → BitVec 3 × BitVec 128
  | .absent => (0, 0)
  | .bytes b =>
    (match b.length with
      | 1 => 1
      | 2 => 2
      | 4 => 3
      | 8 => 4
      | _ => 5,
     bytesPayload b)

/-- The bits `HPROT[3:0]` of protection bits (R116). -/
def protBits (p : Prot) : BitVec 4 :=
  BitVec.ofBool p.cacheable ++ BitVec.ofBool p.bufferable ++ BitVec.ofBool p.priv ++ BitVec.ofBool p.data

/-- A control word with `HSEL = 1` from its fields (R111). -/
def encodeCW (trans : BitVec 2) (write : Bool) (size : SizeCode) (burst : BurstCode) (lock : Bool) (c : Cmd) :
    ControlWord :=
  BitVec.ofBool c.ready ++ BitVec.ofBool lock ++ protBits c.prot ++ burst ++ size ++ BitVec.ofBool write ++ trans
    ++ (1 : BitVec 1)

/-- A command's bits: control word, address, width tag and payload. -/
def commandBits (cw : ControlWord) (addr : Addr) (dp : BusValue) : PortBits :=
  .m2s { cw := cw, addr := addr, wt := (encodeBusValue dp).1, d := (encodeBusValue dp).2 }

/-- A NONSEQ command's bits. -/
def nonseqBits (write : Bool) (size : SizeCode) (burst : BurstCode) (lock : Bool) (c : Cmd) : PortBits :=
  commandBits (encodeCW 2 write size burst lock c) c.addr c.dp

/-- A response's bits. -/
def responseBits (rw : BitVec 2) (data : BusValue) : PortBits :=
  .s2m { rw := rw, wt := (encodeBusValue data).1, d := (encodeBusValue data).2 }

/-- The encoder: the bits of an instruction, ignored bits zero (R123, R125). -/
def encode : Instr → PortBits
  | .nosel r dp => commandBits (BitVec.ofBool r ++ (0 : BitVec 15)) 0 dp
  | .idle r dp => commandBits (BitVec.ofBool r ++ (1 : BitVec 15)) 0 dp
  | .busy w sz b l c => commandBits (encodeCW 1 w sz b l c) c.addr c.dp
  | .seq w sz b l c => commandBits (encodeCW 3 w sz b l c) c.addr c.dp
  | .burst1 w sz l c => nonseqBits w sz 1 l c
  | .burst2 w sz l c => nonseqBits w sz 2 l c
  | .burst3 w sz l c => nonseqBits w sz 3 l c
  | .burst4 w sz l c => nonseqBits w sz 4 l c
  | .burst5 w sz l c => nonseqBits w sz 5 l c
  | .burst6 w sz l c => nonseqBits w sz 6 l c
  | .burst7 w sz l c => nonseqBits w sz 7 l c
  | .lock w sz c => nonseqBits w sz 0 true c
  | .size5 w c => nonseqBits w 5 0 false c
  | .size6 w c => nonseqBits w 6 0 false c
  | .size7 w c => nonseqBits w 7 0 false c
  | .rdB c => nonseqBits false 0 0 false c
  | .rdH c => nonseqBits false 1 0 false c
  | .rdW c => nonseqBits false 2 0 false c
  | .rdD c => nonseqBits false 3 0 false c
  | .rdQ c => nonseqBits false 4 0 false c
  | .wrB c => nonseqBits true 0 0 false c
  | .wrH c => nonseqBits true 1 0 false c
  | .wrW c => nonseqBits true 2 0 false c
  | .wrD c => nonseqBits true 3 0 false c
  | .wrQ c => nonseqBits true 4 0 false c
  | .success data => responseBits 1 data
  | .pending data => responseBits 0 data
  | .error1 data => responseBits 2 data
  | .error2 data => responseBits 3 data
  | .grant => .gnt 1
  | .deny => .gnt 0

/-! The opcode table of R123 as rows of mask and match, and the words the host numbers. -/

/-- The rows of the command space of `CW` (R123), in the order a decoder tests them. -/
inductive CommandRow where
  | nosel | idle | busy | seq
  | burst (b : Nat)
  | lock
  | size (z : Nat)
  | rd (sz : Nat)
  | wr (sz : Nat)
  deriving DecidableEq, Repr

/-- The table of R123: each row with its mask and match over `CW` (spec/opcode_table.json), in decoding order. -/
def commandRows : List (CommandRow × ControlWord × ControlWord) :=
  [(.nosel, 0x0001, 0x0000), (.idle, 0x0007, 0x0001), (.busy, 0x0007, 0x0003), (.seq, 0x0007, 0x0007),
   (.burst 1, 0x0387, 0x0085), (.burst 2, 0x0387, 0x0105), (.burst 3, 0x0387, 0x0185), (.burst 4, 0x0387, 0x0205),
   (.burst 5, 0x0387, 0x0285), (.burst 6, 0x0387, 0x0305), (.burst 7, 0x0387, 0x0385),
   (.lock, 0x4387, 0x4005),
   (.size 5, 0x43F7, 0x0055), (.size 6, 0x43F7, 0x0065), (.size 7, 0x43F7, 0x0075),
   (.rd 0, 0x43FF, 0x0005), (.rd 1, 0x43FF, 0x0015), (.rd 2, 0x43FF, 0x0025), (.rd 3, 0x43FF, 0x0035),
   (.rd 4, 0x43FF, 0x0045),
   (.wr 0, 0x43FF, 0x000D), (.wr 1, 0x43FF, 0x001D), (.wr 2, 0x43FF, 0x002D), (.wr 3, 0x43FF, 0x003D),
   (.wr 4, 0x43FF, 0x004D)]

/-- The first row of the table whose pattern a control word has. -/
def firstRow (cw : ControlWord) : Option CommandRow :=
  (commandRows.find? fun r => cw &&& r.2.1 == r.2.2).map (·.1)

/-- The row of the table an instruction stands for, if it is a command of the control word. -/
def Instr.commandRow : Instr → Option CommandRow
  | .nosel _ _ => some .nosel
  | .idle _ _ => some .idle
  | .busy _ _ _ _ _ => some .busy
  | .seq _ _ _ _ _ => some .seq
  | .burst1 _ _ _ _ => some (.burst 1)
  | .burst2 _ _ _ _ => some (.burst 2)
  | .burst3 _ _ _ _ => some (.burst 3)
  | .burst4 _ _ _ _ => some (.burst 4)
  | .burst5 _ _ _ _ => some (.burst 5)
  | .burst6 _ _ _ _ => some (.burst 6)
  | .burst7 _ _ _ _ => some (.burst 7)
  | .lock _ _ _ => some .lock
  | .size5 _ _ => some (.size 5)
  | .size6 _ _ => some (.size 6)
  | .size7 _ _ => some (.size 7)
  | .rdB _ => some (.rd 0)
  | .rdH _ => some (.rd 1)
  | .rdW _ => some (.rd 2)
  | .rdD _ => some (.rd 3)
  | .rdQ _ => some (.rd 4)
  | .wrB _ => some (.wr 0)
  | .wrH _ => some (.wr 1)
  | .wrW _ => some (.wr 2)
  | .wrD _ => some (.wr 3)
  | .wrQ _ => some (.wr 4)
  | .success _ => none
  | .pending _ => none
  | .error1 _ => none
  | .error2 _ => none
  | .grant => none
  | .deny => none

/-- DESIGN CHOICE (log entries 6 and 7). The port bits of a word `w` of `nbits` bits numbered as
spec/opcode_table.json numbers them, bits above `nbits` zero. More than 8 bits: an M2S message, CW in bits 15..0, ADDR
in 47..16, the width tag in 50..48, the payload above. 2 to 8 bits: an S2M message, RW in bits 1..0, the width tag in
4..2, the payload above. 1 bit: a grant. -/
def tablePortBits (nbits w : Nat) : PortBits :=
  let v := w % 2 ^ nbits
  if nbits ≤ 1 then .gnt (BitVec.ofNat 1 v)
  else if nbits ≤ 8 then
    .s2m { rw := BitVec.ofNat 2 v, wt := BitVec.ofNat 3 (v / 2 ^ 2), d := BitVec.ofNat 128 (v / 2 ^ 5) }
  else
    .m2s { cw := BitVec.ofNat 16 v, addr := BitVec.ofNat 32 (v / 2 ^ 16), wt := BitVec.ofNat 3 (v / 2 ^ 48)
           d := BitVec.ofNat 128 (v / 2 ^ 51) }

/-- The instruction the decoder reads from an instruction whose bits are `w`; `none` where it refuses. -/
def decodeTableWord (nbits w : Nat) : Option Instr :=
  match decode (tablePortBits nbits w) with
  | .ok i => some i
  | .error _ => none

end Sys2Proof
end

