-- ==== Sys2Proof/Machine/State.lean ====
section
/-! DEFINITION. The state of the machine as plain data: the registers of 10_state.md section 4, the checked-mode link
monitors of 60_exceptions.md R396, the configuration, the external inputs of the coming cycles and the outputs of the
last one; the reasons a step can stop; and the state after reset. -/

namespace Sys2Proof.Machine

/-- A target of a decoder: slave `s`'s output stage, or the default slave of the master (R40). -/
inductive Target where
  | slave (s : Nat)
  | dflt
  deriving DecidableEq, Repr

/-- Registers of an input stage (R40): the AP its master regards as accepted that no slave has sampled, and the port
holding the master's data phase. -/
structure ISReg where
  held : Option AP
  dpt : Option Target
  deriving DecidableEq, Repr

/-- The data phase of a default slave (R42). -/
inductive DefPhase where
  | idle
  | err1
  | err2
  deriving DecidableEq, Repr

/-- The registers of one master's side: its input stage, its default slave, and the data-route owner of the output stage
inside the default slave's path (R44, R186; log entry 14). `dflt` stays `idle` and `ddowner` absent where the
configuration gives the master no default slave. -/
structure MasterRegs where
  is : ISReg
  dflt : DefPhase
  ddowner : Option Nat
  deriving DecidableEq, Repr

/-- Registers of an arbiter (R43). -/
structure ArbReg where
  owner : Option Nat
  ptr : Option Nat
  prevReady : Bool
  deriving DecidableEq, Repr

/-- What the upstream data phase of a line buffer is (R291). -/
inductive LBState where
  | idle
  | transparent
  | fetching
  | localHit
  deriving DecidableEq, Repr

/-- Registers of a line buffer (R45). -/
structure LBReg where
  st : LBState
  valid : Bool
  laddr : Addr
  line : List Byte
  off : Nat
  rsize : SizeCode
  faddr : Addr
  enabled : Bool
  deriving DecidableEq, Repr

/-- The state of a write buffer (R321). -/
inductive WBState where
  | transparent
  | idleInjectionDone
  | bufferedWriteFirst
  | bufferedWriteAsync
  deriving DecidableEq, Repr

/-- Registers of a write buffer (R46). -/
structure WBReg where
  st : WBState
  bap : Option AP
  bdata : Option BusValue
  held : Option AP
  deriving DecidableEq, Repr

/-- The registers of one slave's side: arbiter, data-route owner (R44) and adapters. A chain has at most one line
buffer and one write buffer (R11); a register whose adapter the chain lacks stays at reset (log entry 13). -/
structure SlaveRegs where
  arb : ArbReg
  downer : Option Nat
  lb : LBReg
  wb : WBReg
  deriving DecidableEq, Repr

/-- The checked-mode monitor of a link (R396): the AP whose data phase is in progress, and whether the previous cycle
was ERROR1. -/
structure LinkMon where
  dp : Option AP
  err1 : Bool
  deriving DecidableEq, Repr

/-- The external inputs of one cycle (R366 `In@t`), and the reset input (R430). `port` and `bits` are the port in focus
and the message on it, which `step` decodes and runs; the lists are what every port carries, in the order of MASTERS and
SLAVES, a port past the end of its list being at rest. `lbEn` is `LB_EN` of each slave's line buffer; `none` asks for no
toggle. (Log entries 1 and 2.) -/
structure CycleInput where
  reset : Bool
  port : Nat
  bits : PortBits
  m2s : List M2S
  resp : List Resp
  lbEn : List (Option Bool)
  deriving DecidableEq, Repr

/-- The signals of the last completed cycle (R366 `Out@t`, with the grants of R265 and what the masters drove). -/
structure Signals where
  m2s : List M2S
  resp : List Resp
  grants : List (Option Grant)
  toSlave : List M2S
  deriving DecidableEq, Repr

/-- The machine's state. `cfg` is the configuration (R10; no step changes it); `masters` and `slaves` are the registers
(R40 to R46); `masterMon` and `slaveMon` the monitors of the masters' links and of the links below each output stage
(R396); `cycle` the index `t` (R13); `inputs` the external inputs of this cycle (its head) and the coming ones; `last`
the signals of the last completed cycle. -/
structure State where
  cfg : Cfg
  masters : List MasterRegs
  slaves : List SlaveRegs
  masterMon : List LinkMon
  slaveMon : List (List LinkMon)
  cycle : Nat
  inputs : List CycleInput
  last : Signals
  deriving DecidableEq, Repr

/-- The fatal faults of class (b) (R392). -/
inductive FatalName where
  | burst
  | locked
  | sizeReserved
  | sizeTooWide
  | misaligned
  /-- unreachable after the alignment check (R76) -/
  | boundary1KB
  | noTarget
  | lbWrite
  deriving DecidableEq, Repr

/-- The protocol violations of class (a) (R394). -/
inductive ViolationName where
  /-- reported as `idleResponse` instead (R394); no cycle raises it -/
  | dupReply
  | idleResponse
  /-- unreachable (R266) -/
  | missingGrant
  /-- unreachable in the synchronous reading (R267): every contribution is a wire value of the cycle; no cycle raises it -/
  | stuckRendezvous
  | widthMismatch
  | foreignMaster
  | errorSequence
  deriving DecidableEq, Repr

/-- The component that raised a stop (R393), or the link whose monitor did (R396): a master's link, or link `j` below
an output stage, 0 being the one below the stage itself. -/
inductive Place where
  | inputStage (m : Nat)
  | arbiter (s : Nat)
  | outputStage (s : Nat)
  | lineBuffer (s : Nat)
  | writeBuffer (s : Nat)
  | masterLink (m : Nat)
  | chainLink (s : Nat) (j : Nat)
  deriving DecidableEq, Repr

/-- The stops of the block, with the report of R393. -/
inductive Fault where
  /-- Class (b), R392: raised by an input stage for a committed transfer that fails a check of R245, or by a line buffer
  that samples a write (R293). The spec itself stops here, so the stop is no departure from it: safe. -/
  | fatal (name : FatalName) (t : Nat) (at_ : Place) (ap : AP)
  /-- Class (a), R394: raised by an input stage, arbiter, output stage, adapter or link monitor when an agent outside
  broke its obligations. The spec itself stops here (checked mode is always on, R396): safe. -/
  | violation (name : ViolationName) (t : Nat) (at_ : Place)
  deriving DecidableEq, Repr

/-- The refusals: no meaning for the message in this state. -/
inductive Refusal where
  /-- Raised by an arm of exec whose instruction has no meaning yet. Safe: nothing is claimed of it. -/
  | notModelled (mnemonic : String)
  /-- Raised by every cycle and every reset of a configuration that violates R11, R185 or R290, "which has no model" (I17). Safe. -/
  | invalidConfig
  /-- Raised when the port in focus is no port of the configuration (R140). Safe. -/
  | noSuchPort
  /-- Raised by GRANT or DENY in a cycle in which the grant wire in focus does not carry that value: the block drives
  it, and no agent does (R118, R265; log entry 8). Safe. -/
  | grantNotDriven
  /-- Raised by step for bits whose width tag is 110 or 111, "never driven" (R119, I10). Safe. -/
  | undecodable (e : DecodeError)
  deriving DecidableEq, Repr

/-! Values at rest and at reset. -/

/-- `{SUCCESS, Absent}`, the response of an idle data phase (R149). -/
def idleResp : Resp := { status := .success, data := .absent }

/-- An AP with no transfer. -/
def idleAP : AP := { ctl := .idle, ready := true, tag := none }

/-- What a master at rest drives: IDLE and no write data. -/
def idleM2S : M2S := { ap := idleAP, dp := .absent }

/-- An input stage at reset (R40). -/
def ISReg.reset : ISReg := { held := none, dpt := none }

/-- A master's side at reset (R40, R42, R44). -/
def MasterRegs.reset : MasterRegs := { is := .reset, dflt := .idle, ddowner := none }

/-- An arbiter at reset (R43). -/
def ArbReg.reset (k : ArbKind) : ArbReg :=
  { owner := match k with
      | .singleMaster m => some m
      | .rejecting => none
      | .roundRobin => none
      | .fixedPriority => none
      | .combFixed => none
      | .combFixedReversed => none
    ptr := none
    prevReady := true }

/-- A line buffer at reset (R45). DESIGN CHOICE (log entry 5, unsafe): the five fields the spec leaves unspecified are
zero. -/
def LBReg.reset (L : Nat) (en0 : Bool) : LBReg :=
  { st := .idle, valid := false, laddr := 0, line := List.replicate L 0, off := 0, rsize := 0, faddr := 0,
    enabled := en0 }

/-- A write buffer at reset (R46). -/
def WBReg.reset : WBReg := { st := .transparent, bap := none, bdata := none, held := none }

/-- The line buffer's register at reset for a chain: that of its line-buffer entry, if it has one. -/
def chainLBReset : List Adapter → LBReg
  | [] => .reset 0 false
  | .lb L en0 :: _ => .reset L en0
  | .wb :: as => chainLBReset as

/-- A slave's side at reset (R43 to R46). -/
def SlaveRegs.reset (k : SlaveCfg) : SlaveRegs :=
  { arb := .reset k.arb, downer := none, lb := chainLBReset k.chain, wb := .reset }

/-- A link monitor at reset: an idle data phase (R49, R50). -/
def LinkMon.reset : LinkMon := { dp := none, err1 := false }

/-- The inputs of a cycle in which every port rests: IDLE from every master, SUCCESS from every slave, no toggle, no
reset. The message in focus is master 0's, `HSEL = 0`, which an input stage reads as IDLE (R112). -/
def CycleInput.rest : CycleInput :=
  { reset := false, port := 0, bits := .m2s { cw := 0, addr := 0, wt := 0, d := 0 }, m2s := [], resp := [],
    lbEn := [] }

/-- The inputs of the current cycle: the head of the list, or ports at rest (log entry 2). -/
def State.input (s : State) : CycleInput := s.inputs.headD .rest

/-- The registers of master `m`'s side. -/
def State.master (s : State) (m : Nat) : MasterRegs := s.masters.getD m .reset

/-- The registers of slave `n`'s side. -/
def State.slave (s : State) (n : Nat) : SlaveRegs := s.slaves.getD n (.reset .absent)

/-- The monitor of master `m`'s link. -/
def State.masterMonitor (s : State) (m : Nat) : LinkMon := s.masterMon.getD m .reset

/-- The monitor of link `j` below output stage `n`. -/
def State.slaveMonitor (s : State) (n j : Nat) : LinkMon := (s.slaveMon.getD n []).getD j .reset

/-- No cycle has been computed yet. -/
def Signals.none : Signals := { m2s := [], resp := [], grants := [], toSlave := [] }

/-- The state right after reset of a block of configuration `c` (R51, R431, R432), with the external inputs given. -/
def State.resetOf (c : Cfg) (inputs : List CycleInput) : State :=
  { cfg := c
    masters := List.replicate c.nm .reset
    slaves := c.slaves.map .reset
    masterMon := List.replicate c.nm .reset
    slaveMon := c.slaves.map fun k => List.replicate (k.chain.length + 1) .reset
    cycle := 0
    inputs := inputs
    last := .none }

/-- The machine right after reset: the example configuration of R367 (DESIGN CHOICE, log entry 3), no input given. -/
def State.reset : State := State.resetOf exampleCfg []

end Sys2Proof.Machine
end

