-- ==== Sys2Proof/Machine/Flags.lean ====
section
/-! DEFINITION. The flag-like signals of 10_state.md R39: `ready` of a status, the width of a data carrier, and what
kind of address phase an AP is. None is registered. -/

namespace Sys2Proof.Machine

/-- `ready(st)` (R117): true for SUCCESS and ERROR2. -/
def statusReady : Status → Bool
  | .success => true
  | .pending => false
  | .error1 => false
  | .error2 => true

/-- HREADY of a link from its response (R146). -/
def hready (r : Resp) : Bool := statusReady r.status

/-- `bytes(sz) = 2^sz` (R114). -/
def sizeBytes (sz : SizeCode) : Nat := 2 ^ sz.toNat

/-- The width of a data carrier in bytes; absent has none (R36). -/
def widthOf : BusValue → Option Nat
  | .absent => none
  | .bytes b => some b.length

/-- Whether a data carrier exists in a configuration (R36): absent, or 1, 2, 4 or 8 bytes, or 16 with `W16`. -/
def carrierExists (w16 : Bool) (v : BusValue) : Bool :=
  match widthOf v with
  | none => true
  | some n => n == 1 || n == 2 || n == 4 || n == 8 || (n == 16 && w16)

/-- Whether a size code exists in a configuration (R32): 1, 2, 4 or 8 bytes, or 16 with `W16`. -/
def sizeCodeExists (w16 : Bool) (sz : SizeCode) : Bool := decide (sz.toNat ≤ 3) || (decide (sz.toNat = 4) && w16)

/-- The bytes of a data carrier, none for absent. -/
def carriedBytes : BusValue → List Byte
  | .absent => []
  | .bytes b => b

/-- The transfer of an address phase, if it is one. -/
def xferOf (ap : AP) : Option Xfer :=
  match ap.ctl with
  | .idle => none
  | .noSel => none
  | .xfer x => some x

/-- Whether an AP is an `Xfer`: "asserting a valid address phase" (R200, R261). -/
def isXfer (ap : AP) : Bool := (xferOf ap).isSome

/-- `ctl = Idle`. -/
def isIdle (ap : AP) : Bool :=
  match ap.ctl with
  | .idle => true
  | .noSel => false
  | .xfer _ => false

/-- `compatible(ap)` of R322: a write marked bufferable. -/
def compatible (ap : AP) : Bool :=
  match xferOf ap with
  | some x => x.write && x.prot.bufferable
  | none => false

end Sys2Proof.Machine
end

