-- ==== Sys2Proof/Machine/Operands.lean ====
section
/-! DEFINITION. The operand forms (30_encoding.md R122, 20_memory.md): the bundle each command of a master port puts on
its link, line addresses, sub-ranges of a line and the integer view of data. -/

namespace Sys2Proof.Machine

/-- The bundle of a transfer command: its address phase and the write data driven beside it (R34, R38). -/
def xferBundle (kind : Kind) (write : Bool) (size : SizeCode) (burst : BurstCode) (lock : Bool) (c : Cmd) : M2S :=
  { ap :=
      { ctl := .xfer
          { kind := kind, write := write, size := size, burst := burst, prot := c.prot, lock := lock, addr := c.addr }
        ready := c.ready
        tag := none }
    dp := c.dp }

/-- The bundle of a single read of size code `sz` (R155). -/
def readBundle (sz : SizeCode) (c : Cmd) : M2S := xferBundle .single false sz 0 false c

/-- The bundle of a single write of size code `sz` (R161). -/
def writeBundle (sz : SizeCode) (c : Cmd) : M2S := xferBundle .single true sz 0 false c

/-- The bundle of a NONSEQ with a burst code other than 0 (R169). -/
def burstBundle (burst : BurstCode) (write : Bool) (size : SizeCode) (lock : Bool) (c : Cmd) : M2S :=
  xferBundle .single write size burst lock c

/-- The bundle of an IDLE (R153). -/
def idleBundle (ready : Bool) (dp : BusValue) : M2S := { ap := { ctl := .idle, ready := ready, tag := none }, dp := dp }

/-- The bundle of a NOSEL (R154). -/
def noSelBundle (ready : Bool) (dp : BusValue) : M2S :=
  { ap := { ctl := .noSel, ready := ready, tag := none }, dp := dp }

/-- `align_down(a, n)` of R12, for `n` a power of two. -/
def alignDown (a : Addr) (n : Nat) : Addr := BitVec.ofNat 32 (a.toNat - a.toNat % n)

/-- The offset of an address in its line of `L` bytes (R122, R294). -/
def lineOffset (a : Addr) (L : Nat) : Nat := a.toNat % L

/-- `log2(L)` as a size code, for the line sizes of R10 (R296). -/
def lineSizeCode (L : Nat) : SizeCode :=
  if L = 2 then 1 else if L = 4 then 2 else if L = 8 then 3 else if L = 16 then 4 else 0

/-- Bytes `line[off] .. line[off + n - 1]` of a line (R74, R297). -/
def extract (line : List Byte) (off n : Nat) : BusValue := .bytes ((line.drop off).take n)

/-- `Σ b[i] · 256^i` (R72). -/
def leNat : List Byte → Nat
  | [] => 0
  | b :: bs => b.toNat + 256 * leNat bs

/-- `toNat` of a data carrier (R72); it is not asked of an absent one. -/
def busToNat : BusValue → Option Nat
  | .absent => none
  | .bytes b => some (leNat b)

/-- The `n` little-endian bytes of a number (R72). -/
def leBytes : Nat → Nat → List Byte
  | 0, _ => []
  | n + 1, v => BitVec.ofNat 8 v :: leBytes n (v / 256)

/-- `fromNat(n, v)` (R72). -/
def busFromNat (n v : Nat) : BusValue := .bytes (leBytes n v)

end Sys2Proof.Machine
end

