-- ==== Sys2Proof/Machine/Decoder.lean ====
section
/-! DEFINITION. The address decoder (41_decoder.md) and the configurations that have a model (00_scope.md R11,
41_decoder.md R185, 45_line_buffer.md R290). -/

namespace Sys2Proof.Machine

/-- Whether a range covers an address: half-open (R181). -/
def inRange (r : Range) (a : Addr) : Bool := decide (r.base ≤ a.toNat) && decide (a.toNat < r.base + r.size)

/-- `decode_m(a)` (R181); `none` is NO_TARGET. -/
def decodeAddr (k : MasterCfg) (a : Addr) : Option Target :=
  match k.ranges.find? fun r => inRange r a with
  | some r => some (.slave r.slave)
  | none =>
    match k.unmapped with
    | .defaultSlave => some .dflt
    | .noTarget => none

/-- The target of an address phase that is an `Xfer` (R182, R183). -/
def targetOf (k : MasterCfg) (ap : AP) : Option Target :=
  match xferOf ap with
  | some x => decodeAddr k x.addr
  | none => none

/-- `s ∈ REACH[m]`: the slaves named in the ranges of the master (R10). -/
def reaches (k : MasterCfg) (s : Nat) : Bool := k.ranges.any fun r => r.slave == s

/-- The contribution of a master to port `x` (R183): an `Xfer` to its target, `Idle` to every port, else `NoSel`. -/
def contribution (k : MasterCfg) (cand : AP) (x : Target) : AP :=
  match cand.ctl with
  | .idle => cand
  | .noSel => { cand with ctl := .noSel }
  | .xfer _ => if targetOf k cand = some x then cand else { cand with ctl := .noSel }

/-! The configurations that have a model. -/

/-- The masters that reach slave `s`, in MASTERS order (R11). -/
def reachers (c : Cfg) (s : Nat) : List Nat := (List.range c.nm).filter fun m => reaches (c.master m) s

/-- Two ranges do not overlap (R11): no address is in both. DEDUCED (log entry 18): an empty range covers no address, so
it overlaps no other, wherever it lies. -/
def disjoint (r q : Range) : Bool :=
  decide (r.size = 0) || decide (q.size = 0) || decide (r.base + r.size ≤ q.base) || decide (q.base + q.size ≤ r.base)

/-- No two ranges of a table overlap (R11). -/
def disjointRanges : List Range → Bool
  | [] => true
  | r :: rs => rs.all (disjoint r) && disjointRanges rs

/-- The widest transfer, and the granule of range bounds: 16 bytes with `W16`, else 8 (R185). -/
def granule (c : Cfg) : Nat := if c.w16 then 16 else 8

/-- One decoder table: bounds below `2^ADDR_W` (R11), multiples of the widest transfer (R185), a slave of SLAVES. -/
def validRange (c : Cfg) (r : Range) : Bool :=
  decide (r.base + r.size ≤ 2 ^ 32) && decide (r.base % granule c = 0) && decide (r.size % granule c = 0)
    && decide (r.slave < c.ns)

/-- A link width is one of 1, 2, 4, 8, 16 (R10). -/
def validLink (n : Nat) : Bool := n == 1 || n == 2 || n == 4 || n == 8 || n == 16

/-- The parameters of one master (R10, R11, R185). -/
def validMaster (c : Cfg) (k : MasterCfg) : Bool :=
  k.ranges.all (validRange c) && disjointRanges k.ranges && validLink k.linkBytes

/-- R11: SingleMaster only where `m` is the only master that reaches the slave, Rejecting only where none does. -/
def validArb (c : Cfg) (s : Nat) (k : ArbKind) : Bool :=
  match k with
  | .singleMaster m => reachers c s == [m]
  | .rejecting => reachers c s == []
  | .roundRobin => true
  | .fixedPriority => true
  | .combFixed => true
  | .combFixedReversed => true

/-- The adapters of a chain, `w` the width of the link above (R10, R11, R290): at most one of each kind, a line size of
2, 4, 8 or 16 (16 only with `W16`) not below the link above, hence not below the widest size any master may send. -/
def validChain (w16 : Bool) (w : Nat) : List Adapter → Bool
  | [] => true
  | .lb L _ :: as =>
    (L == 2 || L == 4 || L == 8 || (L == 16 && w16)) && decide (w ≤ L) && validChain w16 L as
      && as.all fun a => match a with | .lb _ _ => false | .wb => true
  | .wb :: as => validChain w16 w as && as.all fun a => match a with | .lb _ _ => true | .wb => false

/-- The parameters of one slave (R10, R11, R290). -/
def validSlave (c : Cfg) (s : Nat) : Bool :=
  let k := c.slave s
  validArb c s k.arb && validLink k.linkBytes && validChain c.w16 k.linkBytes k.chain

/-- A configuration that has a model (R11, R185, R290, I17). -/
def validCfg (c : Cfg) : Bool :=
  decide (1 ≤ c.nm) && decide (1 ≤ c.ns) && c.masters.all (validMaster c) && (List.range c.ns).all (validSlave c)

/-! The default slave. -/

/-- The response of a default slave (R186). -/
def DefPhase.response : DefPhase → Resp
  | .idle => idleResp
  | .err1 => { status := .error1, data := .absent }
  | .err2 => { status := .error2, data := .absent }

/-- The grant of a default slave to its master (R186); not driven when nothing is requested. -/
def DefPhase.grant (p : DefPhase) (contrib : AP) (committed : Bool) : Option Grant :=
  if isXfer contrib then (if committed && hready p.response then some .grant else some .deny) else none

/-- The next data phase of a default slave (R186). -/
def DefPhase.next (p : DefPhase) (g : Option Grant) : DefPhase :=
  if g = some .grant then .err1
  else match p with
    | .idle => .idle
    | .err1 => .err2
    | .err2 => .idle

end Sys2Proof.Machine
end

