-- ==== Sys2Proof/Machine/LineBuffer.lean ====
section
/-! DEFINITION. The line buffer (45_line_buffer.md). -/

namespace Sys2Proof.Machine

/-- The class of an upstream address phase (R292). -/
inductive LBClass where
  | idle
  | write
  | pass
  | hit
  | miss
  deriving DecidableEq, Repr

/-- The line as it stands after this cycle's fetch completes (R295): resident, its address, its bytes. -/
def LBReg.postFill (r : LBReg) (rd : Resp) : Bool × Addr × List Byte :=
  if r.st = .fetching ∧ rd.status = .success then (true, r.faddr, carriedBytes rd.data) else (r.valid, r.laddr, r.line)

/-- The hit test (R295), against the post-fill line (C10). -/
def LBReg.hit (r : LBReg) (L : Nat) (a : Addr) (rd : Resp) : Bool :=
  (r.postFill rd).1 && decide ((r.postFill rd).2.1 = alignDown a L)

/-- The class of the upstream address phase (R292). -/
def LBReg.classify (r : LBReg) (L : Nat) (apu : AP) (rd : Resp) : LBClass :=
  match xferOf apu with
  | none => .idle
  | some x =>
    if x.write then .write
    else if x.prot.cacheable = false ∨ r.enabled = false then .pass
    else if r.hit L x.addr rd then .hit
    else .miss

/-- The upstream response (R297, R298). -/
def LBReg.up (r : LBReg) (rd : Resp) : Resp :=
  match r.st with
  | .idle => idleResp
  | .transparent => rd
  | .fetching =>
    if rd.status = .success then
      { status := .success, data := extract (carriedBytes rd.data) r.off (sizeBytes r.rsize) }
    else { status := rd.status, data := .absent }
  | .localHit => { status := .success, data := extract r.line r.off (sizeBytes r.rsize) }

/-- The transfer of a line fetch (R296): one read of the whole line, `cacheable` stripped. -/
def fetchXfer (L : Nat) (x : Xfer) : Xfer :=
  { kind := .single, write := false, size := lineSizeCode L, burst := 0, prot := { x.prot with cacheable := false },
    lock := false, addr := alignDown x.addr L }

/-- The downstream AP (R299). No write data ever goes below a line buffer. -/
def LBReg.down (r : LBReg) (L : Nat) (apu : AP) (rd : Resp) : M2S :=
  let ctl :=
    match r.classify L apu rd, xferOf apu with
    | .miss, some x => Ctl.xfer (fetchXfer L x)
    | .miss, none => Ctl.idle
    | .idle, _ => Ctl.idle
    | .hit, _ => Ctl.idle
    | .write, _ => apu.ctl
    | .pass, _ => apu.ctl
  { ap := { ctl := ctl, ready := hready rd, tag := apu.tag }, dp := .absent }

/-- The fill at the end of a fetch (R301); a fetch that ends with an error fills nothing. -/
def LBReg.fill (r : LBReg) (rd : Resp) : LBReg :=
  if r.st = .fetching ∧ rd.status = .success then
    { r with valid := true, laddr := r.faddr, line := carriedBytes rd.data }
  else r

/-- The data phase the sampled AP starts (R301), `q` the registers after the fill. -/
def LBReg.sample (q : LBReg) (L : Nat) (cls : LBClass) (x : Option Xfer) : LBReg :=
  match cls, x with
  | .pass, _ => { q with st := .transparent }
  | .hit, some x => { q with st := .localHit, off := lineOffset x.addr L, rsize := x.size }
  | .miss, some x =>
    { q with st := .fetching, off := lineOffset x.addr L, rsize := x.size, faddr := alignDown x.addr L }
  | _, _ => { q with st := .idle }

/-- The enable toggle (R300): at an edge with no fetch outstanding across it, the request takes effect and the line is
cleared. -/
def LBReg.toggle (q : LBReg) (en : Option Bool) : LBReg :=
  match en with
  | none => q
  | some e => if e ≠ q.enabled ∧ q.st ≠ .fetching then { q with enabled := e, valid := false } else q

/-- The registers at the edge (R300, R301). -/
def LBReg.next (r : LBReg) (L : Nat) (apu : AP) (rd : Resp) (en : Option Bool) : LBReg :=
  let q := r.fill rd
  let q' := if hready (r.up rd) then q.sample L (r.classify L apu rd) (xferOf apu) else q
  q'.toggle en

/-- `Fatal(LB_WRITE)` (R293): a write the line buffer samples. -/
def LBReg.writeSampled (r : LBReg) (L : Nat) (apu : AP) (rd : Resp) : Bool :=
  decide (r.classify L apu rd = .write) && hready (r.up rd)

/-- `Violation(IDLE_RESPONSE)` (R298): a response while the downstream data phase is idle. -/
def LBReg.idleResponse (r : LBReg) (rd : Resp) : Bool :=
  match r.st with
  | .idle => decide (rd ≠ idleResp)
  | .localHit => decide (rd ≠ idleResp)
  | .transparent => false
  | .fetching => false

/-- `Violation(WIDTH_MISMATCH)` (R297): a fetch response that is not `L` bytes. -/
def LBReg.widthMismatch (r : LBReg) (L : Nat) (rd : Resp) : Bool :=
  decide (r.st = .fetching) && decide (rd.status = .success) && decide (widthOf rd.data ≠ some L)

end Sys2Proof.Machine
end

