-- ==== Sys2Proof/Machine/Monitor.lean ====
section
/-! DEFINITION. The checked-mode monitor of a link (60_exceptions.md R394, R396): the link protocol of
40_transfers.md R142 to R147. -/

namespace Sys2Proof.Machine

/-- The signals of a link in a cycle (R140). -/
structure Wire where
  ap : AP
  dp : BusValue
  resp : Resp
  deriving DecidableEq, Repr

/-- The transfer in data phase on the monitored link. -/
def LinkMon.xfer (k : LinkMon) : Option Xfer :=
  match k.dp with
  | some ap => xferOf ap
  | none => none

/-- The width the write data must have (R144): a write's size in its data phase, else absent. -/
def LinkMon.writeWidth (k : LinkMon) : Option Nat :=
  match k.xfer with
  | some x => if x.write then some (sizeBytes x.size) else none
  | none => none

/-- The width the read data must have (R145): a read's size in the cycle that ends with SUCCESS, else absent. -/
def LinkMon.readWidth (k : LinkMon) (st : Status) : Option Nat :=
  match k.xfer with
  | some x => if x.write = false ∧ st = .success then some (sizeBytes x.size) else none
  | none => none

/-- `Violation(WIDTH_MISMATCH)` on the link (R144, R145, R394): write data or read data of another width than the data
phase calls for. Data that R36 does not have in the configuration is the width of no transfer (R32; log entry 19). -/
def LinkMon.widthMismatch (w16 : Bool) (k : LinkMon) (w : Wire) : Bool :=
  decide (widthOf w.dp ≠ k.writeWidth) || decide (widthOf w.resp.data ≠ k.readWidth w.resp.status) ||
    !carrierExists w16 w.dp || !carrierExists w16 w.resp.data

/-- `Violation(ERROR_SEQUENCE)` on the link (R147, R394): ERROR2 exactly after ERROR1. -/
def LinkMon.errorSequence (k : LinkMon) (w : Wire) : Bool := decide (k.err1 ≠ decide (w.resp.status = .error2))

/-- The monitor at the edge: the AP sampled when HREADY is true starts the next data phase (R142). -/
def LinkMon.next (k : LinkMon) (w : Wire) : LinkMon :=
  { dp := if hready w.resp then (if isXfer w.ap then some w.ap else none) else k.dp
    err1 := decide (w.resp.status = .error1) }

end Sys2Proof.Machine
end

