-- ==== Sys2Proof/Machine/WriteBuffer.lean ====
section
/-! DEFINITION. The write buffer (46_write_buffer.md). -/

namespace Sys2Proof.Machine

/-- The candidate (R323): the held AP, else the upstream's. -/
def WBReg.candidate (r : WBReg) (apu : AP) : AP :=
  match r.held with
  | some h => h
  | none => apu

/-- The upstream response (R324, R325). -/
def WBReg.up (r : WBReg) (rd : Resp) : Resp :=
  match r.st with
  | .transparent => rd
  | .bufferedWriteFirst => idleResp
  | .bufferedWriteAsync =>
    match r.held with
    | some _ => { status := .pending, data := .absent }
    | none => idleResp
  | .idleInjectionDone => { status := .pending, data := .absent }

/-- `ap_d.ctl` (R326). -/
def WBReg.downCtl (r : WBReg) (apu : AP) (rd : Resp) : Ctl :=
  match r.st with
  | .transparent => apu.ctl
  | .bufferedWriteFirst =>
    match rd.status with
    | .success => apu.ctl
    | .pending => if compatible apu then apu.ctl else .idle
    | .error1 => .idle
    | .error2 => .idle
  | .bufferedWriteAsync =>
    match rd.status with
    | .error1 => .idle
    | .error2 => .idle
    | .success => if compatible (r.candidate apu) then (r.candidate apu).ctl else .idle
    | .pending => if compatible (r.candidate apu) then (r.candidate apu).ctl else .idle
  | .idleInjectionDone =>
    match r.held with
    | some h => h.ctl
    | none => .idle

/-- `dp_d` (R326): the buffered write's data, live in its first cycle and from `bdata` after. -/
def WBReg.downData (r : WBReg) (dpu : BusValue) : BusValue :=
  match r.st with
  | .transparent => dpu
  | .bufferedWriteFirst => dpu
  | .bufferedWriteAsync => r.bdata.getD .absent
  | .idleInjectionDone => .absent

/-- The downstream bundle (R326). DEDUCED (log entry 10): the tag is the candidate's, carried as a line buffer does. -/
def WBReg.down (r : WBReg) (u : M2S) (rd : Resp) : M2S :=
  { ap := { ctl := r.downCtl u.ap rd, ready := hready rd, tag := (r.candidate u.ap).tag }, dp := r.downData u.dp }

/-- What follows the end of a buffered write in `BufferedWriteAsync` (R328): `cand` was passed down if compatible and
the write succeeded, is held for the cycle after the injected idle if another transfer, and is nothing if idle. -/
def WBReg.drained (cand : AP) (passed : Bool) : WBReg :=
  if passed && compatible cand then { st := .bufferedWriteFirst, bap := some cand, bdata := none, held := none }
  else if isXfer cand then { st := .idleInjectionDone, bap := none, bdata := none, held := some cand }
  else { st := .transparent, bap := none, bdata := none, held := none }

/-- The registers at the edge (R328, R329). -/
def WBReg.next (r : WBReg) (u : M2S) (rd : Resp) : WBReg :=
  match r.st with
  | .transparent =>
    if hready (r.up rd) && compatible u.ap then { r with st := .bufferedWriteFirst, bap := some u.ap } else r
  | .bufferedWriteFirst =>
    match rd.status with
    | .success =>
      if compatible u.ap then { r with st := .bufferedWriteFirst, bap := some u.ap }
      else { r with st := .transparent, bap := none }
    | .pending =>
      { r with st := .bufferedWriteAsync, bdata := some u.dp, held := if isXfer u.ap then some u.ap else none }
    | .error1 =>
      { r with st := .bufferedWriteAsync, bdata := some u.dp, held := if isXfer u.ap then some u.ap else none }
    | .error2 => r
  | .bufferedWriteAsync =>
    match rd.status with
    | .success => WBReg.drained (r.candidate u.ap) true
    | .error2 => WBReg.drained (r.candidate u.ap) false
    | .pending => if r.held = none ∧ isXfer u.ap = true then { r with held := some u.ap } else r
    | .error1 => if r.held = none ∧ isXfer u.ap = true then { r with held := some u.ap } else r
  | .idleInjectionDone =>
    if hready rd then
      match r.held with
      | some h =>
        if compatible h then { r with st := .bufferedWriteFirst, bap := some h, held := none }
        else { r with st := .transparent, held := none }
      | none => { r with st := .transparent }
    else r

/-- `Violation(IDLE_RESPONSE)` (R328): a response in the cycle whose downstream data phase is the injected idle. -/
def WBReg.idleResponse (r : WBReg) (rd : Resp) : Bool :=
  decide (r.st = .idleInjectionDone) && decide (rd ≠ idleResp)

/-- The byte count of the transfer of an AP, if it is one. -/
def apBytes (ap : Option AP) : Option Nat :=
  match ap with
  | some a => (xferOf a).map fun x => sizeBytes x.size
  | none => none

/-- `Violation(WIDTH_MISMATCH)` (R328): the buffered write's data is not as wide as the write. -/
def WBReg.widthMismatch (r : WBReg) (dpu : BusValue) : Bool :=
  decide (r.st = .bufferedWriteFirst) && decide (widthOf dpu ≠ apBytes r.bap)

/-- `Violation(ERROR_SEQUENCE)` (R328): the buffered write's first response is ERROR2. -/
def WBReg.errorSequence (r : WBReg) (rd : Resp) : Bool :=
  decide (r.st = .bufferedWriteFirst) && decide (rd.status = .error2)

end Sys2Proof.Machine
end

