-- ==== Sys2Proof/Machine/Chain.lean ====
section
/-! DEFINITION. The chain of adapters below an output stage (47_interconnect.md R361, R362 steps R2 and Q5). A chain is
listed from the output stage down; link `j` of a slave is the one above its `j`-th adapter, the last the slave's own. -/

namespace Sys2Proof.Machine

/-- An adapter's upstream response from its downstream one (R362 step R2). -/
def adapterUp (q : SlaveRegs) (a : Adapter) (rd : Resp) : Resp :=
  match a with
  | .lb _ _ => q.lb.up rd
  | .wb => q.wb.up rd

/-- An adapter's downstream bundle (R362 step Q5). -/
def adapterDown (q : SlaveRegs) (a : Adapter) (u : M2S) (rd : Resp) : M2S :=
  match a with
  | .lb L _ => q.lb.down L u.ap rd
  | .wb => q.wb.down u rd

/-- The response at the top of a chain, from the slave's (R362 step R2). -/
def chainUp (q : SlaveRegs) : List Adapter → Resp → Resp
  | [], r => r
  | a :: as, r => adapterUp q a (chainUp q as r)

/-- The links from the output stage down to the slave, from the bundle the stage drives and the slave's response. -/
def chainWires (q : SlaveRegs) : List Adapter → M2S → Resp → List Wire
  | [], u, r => [{ ap := u.ap, dp := u.dp, resp := r }]
  | a :: as, u, r =>
    { ap := u.ap, dp := u.dp, resp := adapterUp q a (chainUp q as r) }
      :: chainWires q as (adapterDown q a u (chainUp q as r)) r

/-- Each adapter of a chain with its upstream bundle and its downstream response. -/
def chainPorts (q : SlaveRegs) : List Adapter → M2S → Resp → List (Adapter × M2S × Resp)
  | [], _, _ => []
  | a :: as, u, r => (a, u, chainUp q as r) :: chainPorts q as (adapterDown q a u (chainUp q as r)) r

/-- The registers of a slave's adapters at the edge, `old` the registers of this cycle, the adapters of `ports` having
taken their edge in turn. -/
def adaptersNext (old : SlaveRegs) (en : Option Bool) : List (Adapter × M2S × Resp) → SlaveRegs → SlaveRegs
  | [], q => q
  | (.lb L _, u, rd) :: ps, q => adaptersNext old en ps { q with lb := old.lb.next L u.ap rd en }
  | (.wb, u, rd) :: ps, q => adaptersNext old en ps { q with wb := old.wb.next u rd }

/-- An adapter whose line buffer samples a write, with the AP (R293). -/
def adapterFatal (q : SlaveRegs) (p : Adapter × M2S × Resp) : Option AP :=
  match p with
  | (.lb L _, u, rd) => if q.lb.writeSampled L u.ap rd then some u.ap else none
  | (.wb, _, _) => none

/-- The place of an adapter of slave `s` in a stop report (R393). -/
def adapterPlace (s : Nat) (a : Adapter) : Place :=
  match a with
  | .lb _ _ => .lineBuffer s
  | .wb => .writeBuffer s

/-- Whether an adapter raises IDLE_RESPONSE (R298, R328). -/
def adapterIdleResponse (q : SlaveRegs) (p : Adapter × M2S × Resp) : Bool :=
  match p with
  | (.lb _ _, _, rd) => q.lb.idleResponse rd
  | (.wb, _, rd) => q.wb.idleResponse rd

/-- Whether an adapter raises WIDTH_MISMATCH (R297, R328). -/
def adapterWidthMismatch (q : SlaveRegs) (p : Adapter × M2S × Resp) : Bool :=
  match p with
  | (.lb L _, _, rd) => q.lb.widthMismatch L rd
  | (.wb, u, _) => q.wb.widthMismatch u.dp

/-- Whether an adapter raises ERROR_SEQUENCE (R328). -/
def adapterErrorSequence (q : SlaveRegs) (p : Adapter × M2S × Resp) : Bool :=
  match p with
  | (.lb _ _, _, _) => false
  | (.wb, _, rd) => q.wb.errorSequence rd

end Sys2Proof.Machine
end

