-- ==== Sys2Proof/Machine/InputStage.lean ====
section
/-! DEFINITION. The input stage (43_input_stage.md) and the checks it makes (30_encoding.md R121). -/

namespace Sys2Proof.Machine

/-- An AP as an input stage reads it: a master-side `NoSel` is `Idle` (R112, R242). -/
def asMasterAP (ap : AP) : AP :=
  match ap.ctl with
  | .idle => ap
  | .noSel => { ap with ctl := .idle }
  | .xfer _ => ap

/-- `HREADYd_m`, which is `committed_m` (R241), `port` being the responses of the ports to this master. -/
def ISReg.committed (r : ISReg) (port : Target → Resp) : Bool :=
  match r.dpt with
  | some x => hready (port x)
  | none => true

/-- The response to the master (R243). -/
def ISReg.response (r : ISReg) (port : Target → Resp) : Resp :=
  match r.held with
  | some _ => { status := .pending, data := .absent }
  | none =>
    match r.dpt with
    | some x => port x
    | none => idleResp

/-- The candidate AP (R242): the held AP, else the master's own, its ready flag `committed_m`. -/
def ISReg.candidate (r : ISReg) (ap : AP) (committed : Bool) : AP :=
  match r.held with
  | some h => { h with ready := committed }
  | none => { asMasterAP ap with ready := committed }

/-- The write data sent to port `x` (R244). -/
def ISReg.writeData (r : ISReg) (dp : BusValue) (x : Target) : BusValue := if r.dpt = some x then dp else .absent

/-- The registers at the edge (R246): an accepted AP's data phase is at its target, a denied one is held. -/
def ISReg.next (r : ISReg) (committed : Bool) (cand : AP) (target : Option Target) (g : Option Grant) : ISReg :=
  if committed then
    if isXfer cand then
      if g = some .grant then { held := none, dpt := target } else { held := some cand, dpt := none }
    else { held := none, dpt := none }
  else r

/-- The checks of R121 on a transfer, in order, `link` the width of the master's link: the first that fails names the
fault. -/
def checkXfer (w16 : Bool) (link : Nat) (x : Xfer) : Option FatalName :=
  if ¬(x.kind = .single ∧ x.burst = 0) then some .burst
  else if x.lock then some .locked
  else if ¬(x.size.toNat ≤ 3 ∨ (x.size.toNat = 4 ∧ w16 = true)) then some .sizeReserved
  else if ¬(sizeBytes x.size ≤ link) then some .sizeTooWide
  else if ¬(x.addr.toNat % sizeBytes x.size = 0) then some .misaligned
  else if ¬(x.addr.toNat / 1024 = (x.addr.toNat + sizeBytes x.size - 1) / 1024) then some .boundary1KB
  else none

/-- Checks 7 and 8 of R245, `below` the width of the link below a slave's output stage: a target exists, and the
transfer fits the link below it. -/
def checkTarget (below : Nat → Nat) (target : Option Target) (x : Xfer) : Option FatalName :=
  match target with
  | none => some .noTarget
  | some .dflt => none
  | some (.slave s) => if sizeBytes x.size ≤ below s then none else some .sizeTooWide

/-- The first failing check of R245 for a transfer of master `m`. -/
def checkAll (c : Cfg) (m : Nat) (x : Xfer) : Option FatalName :=
  match checkXfer c.w16 (c.master m).linkBytes x with
  | some f => some f
  | none => checkTarget (fun s => (c.slave s).linkBytes) (decodeAddr (c.master m) x.addr) x

/-- The fault an input stage raises (R245): for its master's own AP, committed and an `Xfer`. A held AP was checked when
it was first committed and is not checked again. -/
def ISReg.fault (r : ISReg) (c : Cfg) (m : Nat) (committed : Bool) (cand : AP) : Option FatalName :=
  match r.held, committed, xferOf cand with
  | none, true, some x => checkAll c m x
  | _, _, _ => none

end Sys2Proof.Machine
end

