-- ==== Sys2Proof/Machine/Arbiter.lean ====
section
/-! DEFINITION. The six arbiter variants (42_arbiter.md), as functions of the registers and the cycle's inputs. -/

namespace Sys2Proof.Machine

/-- What an arbiter reads in a cycle (R200): the requesting masters in index order, HREADY of the link below the output
stage, the AP the stage forwards, the data-route owner, and the number of masters. -/
structure ArbIn where
  reqs : List Nat
  rdy : Bool
  last : AP
  downer : Option Nat
  nm : Nat
  deriving DecidableEq, Repr

/-- The fallback when nobody requests: the owner, while its transfer is in data phase on this output stage (R206,
D14). -/
def parkedOwner (owner downer : Option Nat) : Option Nat :=
  if owner ≠ none ∧ downer = owner then owner else none

/-- The same-cycle decision of the combinatorial variants (R207, R208), `pick` being the requester chosen. -/
def combOwner (a : ArbReg) (downer pick : Option Nat) : Option Nat :=
  if a.prevReady = false then a.owner
  else match pick with
    | some m => some m
    | none => parkedOwner a.owner downer

/-- `own@t` (R201): the address-route owner of the cycle. -/
def ArbReg.own (k : ArbKind) (a : ArbReg) (reqs : List Nat) (downer : Option Nat) : Option Nat :=
  match k with
  | .singleMaster m => some m
  | .rejecting => none
  | .roundRobin => a.owner
  | .fixedPriority => a.owner
  | .combFixed => combOwner a downer reqs.head?
  | .combFixedReversed => combOwner a downer reqs.getLast?

/-- `lock@t` (R200): the forwarded AP is a locked `Xfer`. Unreachable in a run that has not stopped (C2). -/
def lockFlag (last : AP) : Bool :=
  match xferOf last with
  | some x => x.lock
  | none => false

/-- The scan order of a round robin (R204): just after the last master decided for, wrapping to include it. -/
def scanOrder (ptr : Option Nat) (nm : Nat) : List Nat :=
  let start := match ptr with
    | some p => p + 1
    | none => 0
  List.range' start (nm - start) ++ List.range start

/-- The decision of a round robin for the next cycle (R203, R204, R205). -/
def roundRobinNext (a : ArbReg) (i : ArbIn) : Option Nat :=
  if i.rdy = false then a.owner
  else if lockFlag i.last then a.owner
  else match (scanOrder a.ptr i.nm).find? fun m => i.reqs.contains m with
    | some m => some m
    | none => if isIdle i.last then a.owner else none

/-- The decision of a registered fixed priority for the next cycle (R203, R206). -/
def fixedPriorityNext (a : ArbReg) (i : ArbIn) : Option Nat :=
  if i.rdy = false then a.owner
  else if lockFlag i.last then a.owner
  else match i.reqs.head? with
    | some m => some m
    | none => parkedOwner a.owner i.downer

/-- The arbiter's registers at the edge (R202 to R209, R270). -/
def ArbReg.next (k : ArbKind) (a : ArbReg) (i : ArbIn) : ArbReg :=
  match k with
  | .singleMaster _ => a
  | .rejecting => a
  | .roundRobin =>
    let n := roundRobinNext a i
    { a with owner := n, ptr := match n with | some m => some m | none => a.ptr }
  | .fixedPriority => { a with owner := fixedPriorityNext a i }
  | .combFixed => { a with owner := a.own k i.reqs i.downer, prevReady := i.rdy }
  | .combFixedReversed => { a with owner := a.own k i.reqs i.downer, prevReady := i.rdy }

/-- `Violation(FOREIGN_MASTER)` (R202, R209): a request from a master the arbiter does not serve. -/
def foreignRequest (k : ArbKind) (reqs : List Nat) : Bool :=
  match k with
  | .singleMaster m0 => reqs.any fun m => m != m0
  | .rejecting => !reqs.isEmpty
  | .roundRobin => false
  | .fixedPriority => false
  | .combFixed => false
  | .combFixedReversed => false

end Sys2Proof.Machine
end

