-- ==== Sys2Proof/Machine/OutputStage.lean ====
section
/-! DEFINITION. The output stage (44_output_stage.md), as functions of its signals. -/

namespace Sys2Proof.Machine

/-- The contribution of the address-route owner, if it is a committed transfer (R263, R264). -/
def ownerTransfer (own : Option Nat) (contrib : Nat → AP) : Option (Nat × AP) :=
  match own with
  | some o => if isXfer (contrib o) && (contrib o).ready then some (o, contrib o) else none
  | none => none

/-- The AP forwarded to the slave link (R263): the owner's committed transfer, else `Idle`. -/
def forwardedAP (own : Option Nat) (contrib : Nat → AP) (rdy : Bool) : AP :=
  match ownerTransfer own contrib with
  | some (_, ap) => { ctl := ap.ctl, ready := rdy, tag := ap.tag }
  | none => { ctl := .idle, ready := rdy, tag := none }

/-- `acc@t` (R264): the master whose AP the slave link samples at the next edge. -/
def accepted (own : Option Nat) (contrib : Nat → AP) (rdy : Bool) : Option Nat :=
  match ownerTransfer own contrib with
  | some (o, _) => if rdy then some o else none
  | none => none

/-- `g[s→m]@t` (R265): exactly one of GRANT and DENY for a requester, else not driven. -/
def stageGrant (acc : Option Nat) (contrib : Nat → AP) (m : Nat) : Option Grant :=
  if isXfer (contrib m) then (if acc = some m then some .grant else some .deny) else none

/-- `dp_s@t` (R267): the write data of the data-route owner. -/
def stageData (downer : Option Nat) (data : Nat → BusValue) : BusValue :=
  match downer with
  | some d => data d
  | none => .absent

/-- `r[s→m]@t` (R268): the slave's response to the data-route owner, the idle response to everyone else. -/
def dispatched (downer : Option Nat) (rs : Resp) (m : Nat) : Resp := if downer = some m then rs else idleResp

/-- `Violation(IDLE_RESPONSE)` (R268): a response while nobody owns the data route. -/
def strayResponse (downer : Option Nat) (rs : Resp) : Bool := decide (downer = none) && decide (rs ≠ idleResp)

/-- The data-route owner at the edge (R269). -/
def downerNext (downer acc : Option Nat) (rdy : Bool) : Option Nat := if rdy then acc else downer

end Sys2Proof.Machine
end

