-- ==== Sys2Proof/Machine/Cycle.lean ====
section
/-! DEFINITION. One clock cycle of the block (47_interconnect.md R362): every signal of phases R and Q as a function of
the registers and the external inputs, the stop of R399, and the edge. A signal has one value per cycle (R12, R363). -/

namespace Sys2Proof.Machine

/-- A cycle: the state at its first edge and the external inputs driven in it (R366). -/
structure Cycle where
  st : State
  inp : CycleInput
  deriving DecidableEq, Repr

namespace Cycle

/-- The masters' indices, in MASTERS order. -/
def masterIds (c : Cycle) : List Nat := List.range c.st.cfg.nm

/-- The slaves' indices, in SLAVES order. -/
def slaveIds (c : Cycle) : List Nat := List.range c.st.cfg.ns

/-! Phase R (replies). -/

/-- R1: the response slave `s` drives. -/
def slaveResp (c : Cycle) (s : Nat) : Resp := c.inp.resp.getD s idleResp

/-- R2: the response `rs@t` on the link below output stage `s`. -/
def stageResp (c : Cycle) (s : Nat) : Resp := chainUp (c.st.slave s) (c.st.cfg.slave s).chain (c.slaveResp s)

/-- `rdy@t` of output stage `s` (R260). -/
def rdy (c : Cycle) (s : Nat) : Bool := hready (c.stageResp s)

/-- R3 and R4: the response port `x` dispatches to master `m` (R186, R268): a default slave's stage dispatches as any
other. -/
def portResp (c : Cycle) (m : Nat) (x : Target) : Resp :=
  match x with
  | .slave s => dispatched (c.st.slave s).downer (c.stageResp s) m
  | .dflt => dispatched (c.st.master m).ddowner (c.st.master m).dflt.response m

/-- R5: `committed_m@t` (R241). -/
def committed (c : Cycle) (m : Nat) : Bool := (c.st.master m).is.committed (c.portResp m)

/-- R5: `resp_m@t` (R243). -/
def resp (c : Cycle) (m : Nat) : Resp := (c.st.master m).is.response (c.portResp m)

/-! Phase Q (requests). -/

/-- Q1: what master `m` drives. -/
def driven (c : Cycle) (m : Nat) : M2S := c.inp.m2s.getD m idleM2S

/-- Q2: `cand_m@t` (R242). -/
def cand (c : Cycle) (m : Nat) : AP := (c.st.master m).is.candidate (c.driven m).ap (c.committed m)

/-- The target of master `m`'s candidate (R181). -/
def target (c : Cycle) (m : Nat) : Option Target := targetOf (c.st.cfg.master m) (c.cand m)

/-- Q2: `dpo[m][x]@t` (R244). -/
def writeData (c : Cycle) (m : Nat) (x : Target) : BusValue := (c.st.master m).is.writeData (c.driven m).dp x

/-- Q3: `c[m][x]@t` (R183). -/
def contrib (c : Cycle) (m : Nat) (x : Target) : AP := contribution (c.st.cfg.master m) (c.cand m) x

/-- Q4: the masters that request output stage `s`, in MASTERS order (R261). -/
def reqs (c : Cycle) (s : Nat) : List Nat := c.masterIds.filter fun m => isXfer (c.contrib m (.slave s))

/-- Q4: `own@t` of output stage `s` (R262). -/
def own (c : Cycle) (s : Nat) : Option Nat :=
  (c.st.slave s).arb.own (c.st.cfg.slave s).arb (c.reqs s) (c.st.slave s).downer

/-- Q4: `ap_s@t` (R263). -/
def stageAP (c : Cycle) (s : Nat) : AP := forwardedAP (c.own s) (fun m => c.contrib m (.slave s)) (c.rdy s)

/-- Q4: `acc@t` of output stage `s` (R264). -/
def acc (c : Cycle) (s : Nat) : Option Nat := accepted (c.own s) (fun m => c.contrib m (.slave s)) (c.rdy s)

/-- Q4: `g[x→m]@t` (R186, R265). -/
def portGrant (c : Cycle) (m : Nat) (x : Target) : Option Grant :=
  match x with
  | .slave s => stageGrant (c.acc s) (fun k => c.contrib k (.slave s)) m
  | .dflt => (c.st.master m).dflt.grant (c.contrib m .dflt) (c.committed m)

/-- The grant master `m`'s candidate receives from its target. -/
def grant (c : Cycle) (m : Nat) : Option Grant :=
  match c.target m with
  | some x => c.portGrant m x
  | none => none

/-- Q4: `dp_s@t` (R267). -/
def stageData (c : Cycle) (s : Nat) : BusValue :=
  Machine.stageData (c.st.slave s).downer fun m => c.writeData m (.slave s)

/-- Q5: the links below output stage `s`, from the stage down to the slave. -/
def wires (c : Cycle) (s : Nat) : List Wire :=
  chainWires (c.st.slave s) (c.st.cfg.slave s).chain { ap := c.stageAP s, dp := c.stageData s } (c.slaveResp s)

/-- Q5: the adapters of `CHAIN[s]` with their upstream bundles and downstream responses. -/
def ports (c : Cycle) (s : Nat) : List (Adapter × M2S × Resp) :=
  chainPorts (c.st.slave s) (c.st.cfg.slave s).chain { ap := c.stageAP s, dp := c.stageData s } (c.slaveResp s)

/-- The bundle on the link into slave `s` (R366 `Out@t`). -/
def toSlave (c : Cycle) (s : Nat) : M2S :=
  match (c.wires s).getLast? with
  | some w => { ap := w.ap, dp := w.dp }
  | none => idleM2S

/-- Master `m`'s link, its AP as the input stage reads it (R112). -/
def masterWire (c : Cycle) (m : Nat) : Wire :=
  { ap := asMasterAP (c.driven m).ap, dp := (c.driven m).dp, resp := c.resp m }

/-! The stop of the cycle (R392 to R399). -/

/-- Class (b): the fault of input stage `m` (R245). -/
def stageFault (c : Cycle) (m : Nat) : Option Fault :=
  ((c.st.master m).is.fault c.st.cfg m (c.committed m) (c.cand m)).map fun f =>
    .fatal f c.st.cycle (.inputStage m) (c.cand m)

/-- Class (b): the fault of the line buffer of `CHAIN[s]` (R293). -/
def lineFault (c : Cycle) (s : Nat) : Option Fault :=
  ((c.ports s).findSome? (adapterFatal (c.st.slave s))).map fun ap =>
    .fatal .lbWrite c.st.cycle (.lineBuffer s) ap

/-- A violation, if its condition holds. -/
def violationIf (c : Cycle) (b : Bool) (v : ViolationName) (p : Place) : Option Fault :=
  if b then some (.violation v c.st.cycle p) else none

/-- A violation the adapters of `CHAIN[s]` raise, the first from the top (R399). -/
def adapterViolation (c : Cycle) (v : ViolationName) (bad : SlaveRegs → Adapter × M2S × Resp → Bool) (s : Nat) :
    Option Fault :=
  (c.ports s).findSome? fun p => c.violationIf (bad (c.st.slave s) p) v (adapterPlace s p.1)

/-- IDLE_RESPONSE at output stage `s` (R268). -/
def strayResponse (c : Cycle) (s : Nat) : Option Fault :=
  c.violationIf (Machine.strayResponse (c.st.slave s).downer (c.stageResp s)) .idleResponse (.outputStage s)

/-- MISSING_GRANT at input stage `m` (R246): a requester with a target and no grant value. -/
def missingGrant (c : Cycle) (m : Nat) : Option Fault :=
  c.violationIf ((c.target m).isSome && decide (c.grant m = none)) .missingGrant (.inputStage m)

/-- FOREIGN_MASTER at the arbiter of slave `s` (R202, R209). -/
def foreignMaster (c : Cycle) (s : Nat) : Option Fault :=
  c.violationIf (foreignRequest (c.st.cfg.slave s).arb (c.reqs s)) .foreignMaster (.arbiter s)

/-- A violation the monitor of master `m`'s link raises (R396). -/
def masterMonViolation (c : Cycle) (v : ViolationName) (bad : LinkMon → Wire → Bool) (m : Nat) : Option Fault :=
  c.violationIf (bad (c.st.masterMonitor m) (c.masterWire m)) v (.masterLink m)

/-- A violation the monitors of the links below output stage `s` raise, the first from the top (R396, R399). -/
def chainMonViolation (c : Cycle) (v : ViolationName) (bad : LinkMon → Wire → Bool) (s : Nat) : Option Fault :=
  (c.wires s).zipIdx.findSome? fun wj =>
    c.violationIf (bad (c.st.slaveMonitor s wj.2) wj.1) v (.chainLink s wj.2)

/-- The stop of the cycle, if any: the first in the order of R399. Class (b) by input stages then line buffers; class
(a) in the row order of R394, and within a row input stages, arbiters, output stages, adapters, link monitors (masters'
first), each by MASTERS or SLAVES (log entry 12). -/
def stop (c : Cycle) : Option Fault :=
  c.masterIds.findSome? c.stageFault
  <|> c.slaveIds.findSome? c.lineFault
  <|> c.slaveIds.findSome? c.strayResponse
  <|> c.slaveIds.findSome? (c.adapterViolation .idleResponse adapterIdleResponse)
  <|> c.masterIds.findSome? c.missingGrant
  <|> c.slaveIds.findSome? (c.adapterViolation .widthMismatch adapterWidthMismatch)
  <|> c.masterIds.findSome? (c.masterMonViolation .widthMismatch (LinkMon.widthMismatch c.st.cfg.w16))
  <|> c.slaveIds.findSome? (c.chainMonViolation .widthMismatch (LinkMon.widthMismatch c.st.cfg.w16))
  <|> c.slaveIds.findSome? c.foreignMaster
  <|> c.slaveIds.findSome? (c.adapterViolation .errorSequence adapterErrorSequence)
  <|> c.masterIds.findSome? (c.masterMonViolation .errorSequence LinkMon.errorSequence)
  <|> c.slaveIds.findSome? (c.chainMonViolation .errorSequence LinkMon.errorSequence)

/-! The edge. -/

/-- `acc@t` of the output stage inside the default slave's path of master `m` (R186, R264). -/
def dfltAcc (c : Cycle) (m : Nat) : Option Nat := if c.portGrant m .dflt = some .grant then some m else none

/-- The registers of master `m`'s side at the edge (R186, R246, R269). -/
def nextMaster (c : Cycle) (m : Nat) : MasterRegs :=
  let q := c.st.master m
  { is := q.is.next (c.committed m) (c.cand m) (c.target m) (c.grant m)
    dflt := q.dflt.next (c.portGrant m .dflt)
    ddowner := downerNext q.ddowner (c.dfltAcc m) (hready q.dflt.response) }

/-- What the arbiter of slave `s` reads (R200, R270). -/
def arbIn (c : Cycle) (s : Nat) : ArbIn :=
  { reqs := c.reqs s, rdy := c.rdy s, last := c.stageAP s, downer := (c.st.slave s).downer, nm := c.st.cfg.nm }

/-- `LB_EN@t` of slave `s` (R290). -/
def lbEn (c : Cycle) (s : Nat) : Option Bool := c.inp.lbEn.getD s none

/-- The registers of slave `s`'s side at the edge (R269, R270, R300, R301, R328). -/
def nextSlave (c : Cycle) (s : Nat) : SlaveRegs :=
  let q := c.st.slave s
  adaptersNext q (c.lbEn s) (c.ports s)
    { q with arb := q.arb.next (c.st.cfg.slave s).arb (c.arbIn s), downer := downerNext q.downer (c.acc s) (c.rdy s) }

/-- The monitors of the links below output stage `s` at the edge. -/
def nextMonitors (c : Cycle) (s : Nat) : List LinkMon :=
  (c.wires s).zipIdx.map fun wj => (c.st.slaveMonitor s wj.2).next wj.1

/-- The signals of the cycle that `State.last` keeps (R366 `Out@t`). -/
def signals (c : Cycle) : Signals :=
  { m2s := c.masterIds.map c.driven
    resp := c.masterIds.map c.resp
    grants := c.masterIds.map c.grant
    toSlave := c.slaveIds.map c.toSlave }

/-- The state at the next edge (R362). -/
def edge (c : Cycle) : State :=
  { cfg := c.st.cfg
    masters := c.masterIds.map c.nextMaster
    slaves := c.slaveIds.map c.nextSlave
    masterMon := c.masterIds.map fun m => (c.st.masterMonitor m).next (c.masterWire m)
    slaveMon := c.slaveIds.map c.nextMonitors
    cycle := c.st.cycle + 1
    inputs := c.st.inputs.tail
    last := c.signals }

end Cycle

end Sys2Proof.Machine
end

