-- ==== Sys2Proof/Machine/Ops.lean ====
section
/-! DEFINITION. The named operations the meanings are written over: running a cycle, stopping the block (60_exceptions.md
R397), driving a message on a port, observing a grant, resetting. The block has no trap entry and no trap return (R400,
R401): the one thing that takes the place of an exception is the stop. -/

namespace Sys2Proof.Machine

/-- `raise Fatal(..)` and `raise Violation(..)` (R397, R398): the block stops with the report, and no register takes a
new value. There is no recovery but reset. -/
def raiseStop (f : Fault) : Host.Outcome State Fault Refusal := .fault f

/-- One cycle of the block with the external inputs given (R366): its stop, or the state at the next edge. A
configuration that violates R11, R185 or R290 has no model (I17). -/
def runCycle (s : State) (inp : CycleInput) : Host.Outcome State Fault Refusal :=
  if validCfg s.cfg then
    match ({ st := s, inp := inp } : Cycle).stop with
    | some f => raiseStop f
    | none => .next ({ st := s, inp := inp } : Cycle).edge
  else .refused .invalidConfig

/-- A list with its entry `i` replaced, entries before it that are missing being `d`. -/
def setAt {α : Type} (d : α) : List α → Nat → α → List α
  | [], 0, v => [v]
  | [], i + 1, v => d :: setAt d [] i v
  | _ :: xs, 0, v => v :: xs
  | x :: xs, i + 1, v => x :: setAt d xs i v

/-- The inputs of a cycle with master `m` driving a bundle. -/
def CycleInput.drive (inp : CycleInput) (m : Nat) (b : M2S) : CycleInput :=
  { inp with m2s := setAt idleM2S inp.m2s m b }

/-- The inputs of a cycle with slave `n` driving a response. -/
def CycleInput.answer (inp : CycleInput) (n : Nat) (r : Resp) : CycleInput :=
  { inp with resp := setAt idleResp inp.resp n r }

/-- The cycle in which the master in focus drives a bundle (R366, Q1). -/
def driveMaster (s : State) (b : M2S) : Host.Outcome State Fault Refusal :=
  if s.input.port < s.cfg.nm then runCycle s (s.input.drive s.input.port b) else .refused .noSuchPort

/-- The cycle in which the slave in focus drives a response (R366, R1). -/
def driveSlave (s : State) (r : Resp) : Host.Outcome State Fault Refusal :=
  if s.input.port < s.cfg.ns then runCycle s (s.input.answer s.input.port r) else .refused .noSuchPort

/-- The cycle in which the grant wire of the master in focus carries a value. The block drives it (R265), so in a cycle
in which it carries another value, or none, the message does not occur. DESIGN CHOICE (log entry 8). -/
def observeGrant (s : State) (g : Grant) : Host.Outcome State Fault Refusal :=
  if s.input.port < s.cfg.nm then
    match runCycle s s.input with
    | .next t =>
      if ({ st := s, inp := s.input } : Cycle).grant s.input.port = some g then .next t
      else .refused .grantNotDriven
    | .fault f => .fault f
    | .refused r => .refused r
  else .refused .noSuchPort

/-- The power-on reset (R430 to R432): every register at its reset value, every transfer in progress discarded, no cycle
computed; the configuration does not change. The inputs of the coming cycles are the outside's and stay. -/
def applyReset (s : State) : State := State.resetOf s.cfg s.inputs.tail

/-- A step with reset asserted (R432). A configuration that violates R11, R185 or R290 has no model, so it has no reset
state either (I17). -/
def runReset (s : State) : Host.Outcome State Fault Refusal :=
  if validCfg s.cfg then .next (applyReset s) else .refused .invalidConfig

/-- DESIGN CHOICE (log entry 9). The inputs of a cycle whose message in focus has the bits of a table word, on port 0. For
a grant bit, master 0 also drives the request the grant answers at reset: GRANT answers a read at the top of the address
space (unmapped, so its default slave's), DENY a read at the base of its first range. -/
def CycleInput.withWord (inp : CycleInput) (nbits w : Nat) (k : MasterCfg) : CycleInput :=
  let ask (a : Nat) : M2S :=
    readBundle 0
      { ready := true, prot := { data := true, priv := true, bufferable := false, cacheable := false }
        addr := BitVec.ofNat 32 a, dp := .absent }
  let base : Nat := match k.ranges with
    | [] => 0
    | r :: _ => r.base
  let here : CycleInput := { inp with reset := false, port := 0, bits := tablePortBits nbits w }
  match tablePortBits nbits w with
  | .m2s _ => here
  | .s2m _ => here
  | .gnt b => here.drive 0 (ask (if b.getLsbD 0 then 0xFFFFFFFF else base))

end Sys2Proof.Machine
end

