-- ==== Sys2Proof/Machine/Grants.lean ====
section
/-! DEFINITION. The grant signal (40_transfers.md R176, R177): the cycle in which the output stage sends it to the input
stage of the master in focus. -/

namespace Sys2Proof.Machine

/-- GRANT (R176): the output stage accepts the master's AP; its slave link samples it at the next edge. -/
def execGrant (s : State) : Host.Outcome State Fault Refusal := observeGrant s .grant

/-- DENY (R177): the master's AP is not accepted; a committed one is held. -/
def execDeny (s : State) : Host.Outcome State Fault Refusal := observeGrant s .deny

end Sys2Proof.Machine
end

