-- ==== Sys2Proof/Machine/NoTransfer.lean ====
section
/-! DEFINITION. The no-transfer commands NOSEL and IDLE (40_transfers.md R153, R154). -/

namespace Sys2Proof.Machine

/-- NOSEL on a master's port (R154): the input stage reads it as IDLE (R112, R152). -/
def execNosel (ready : Bool) (dp : BusValue) (s : State) : Host.Outcome State Fault Refusal :=
  driveMaster s (noSelBundle ready dp)

/-- IDLE (R153): requests no output stage. -/
def execIdle (ready : Bool) (dp : BusValue) (s : State) : Host.Outcome State Fault Refusal :=
  driveMaster s (idleBundle ready dp)

end Sys2Proof.Machine
end

