-- ==== Sys2Proof/Machine/Reads.lean ====
section
/-! DEFINITION. The reads RD.B to RD.Q (40_transfers.md R155 to R160): the cycle in which the master in focus drives the
read. The block checks, routes, arbitrates, forwards, grants and dispatches it as the cycle says. -/

namespace Sys2Proof.Machine

/-- RD.B (R156): a single read of 1 byte. -/
def execRdB (c : Cmd) (s : State) : Host.Outcome State Fault Refusal := driveMaster s (readBundle 0 c)

/-- RD.H (R157): a single read of 2 bytes. -/
def execRdH (c : Cmd) (s : State) : Host.Outcome State Fault Refusal := driveMaster s (readBundle 1 c)

/-- RD.W (R158): a single read of 4 bytes. -/
def execRdW (c : Cmd) (s : State) : Host.Outcome State Fault Refusal := driveMaster s (readBundle 2 c)

/-- RD.D (R159): a single read of 8 bytes. -/
def execRdD (c : Cmd) (s : State) : Host.Outcome State Fault Refusal := driveMaster s (readBundle 3 c)

/-- RD.Q (R160): a single read of 16 bytes. -/
def execRdQ (c : Cmd) (s : State) : Host.Outcome State Fault Refusal := driveMaster s (readBundle 4 c)

end Sys2Proof.Machine
end

