-- ==== Sys2Proof/Machine/Reserved.lean ====
section
/-! DEFINITION. The reserved commands (40_transfers.md R167 to R171). Each is representable (R34): the cycle in which it is
committed stops with the fault of R121's first failing check; an uncommitted one is not yet checked (R167, R245). -/

namespace Sys2Proof.Machine

/-- BUSY (R167): `Fatal(BURST)` when committed. -/
def execBusy (write : Bool) (size : SizeCode) (burst : BurstCode) (lock : Bool) (c : Cmd) (s : State) :
    Host.Outcome State Fault Refusal :=
  driveMaster s (xferBundle .busy write size burst lock c)

/-- SEQ (R168): `Fatal(BURST)` when committed. -/
def execSeq (write : Bool) (size : SizeCode) (burst : BurstCode) (lock : Bool) (c : Cmd) (s : State) :
    Host.Outcome State Fault Refusal :=
  driveMaster s (xferBundle .seq write size burst lock c)

/-- NONSEQ.BURST1, INCR (R169): `Fatal(BURST)` when committed. -/
def execBurst1 (write : Bool) (size : SizeCode) (lock : Bool) (c : Cmd) (s : State) :
    Host.Outcome State Fault Refusal :=
  driveMaster s (burstBundle 1 write size lock c)

/-- NONSEQ.BURST2, WRAP4 (R169): `Fatal(BURST)` when committed. -/
def execBurst2 (write : Bool) (size : SizeCode) (lock : Bool) (c : Cmd) (s : State) :
    Host.Outcome State Fault Refusal :=
  driveMaster s (burstBundle 2 write size lock c)

/-- NONSEQ.BURST3, INCR4 (R169): `Fatal(BURST)` when committed. -/
def execBurst3 (write : Bool) (size : SizeCode) (lock : Bool) (c : Cmd) (s : State) :
    Host.Outcome State Fault Refusal :=
  driveMaster s (burstBundle 3 write size lock c)

/-- NONSEQ.BURST4, WRAP8 (R169): `Fatal(BURST)` when committed. -/
def execBurst4 (write : Bool) (size : SizeCode) (lock : Bool) (c : Cmd) (s : State) :
    Host.Outcome State Fault Refusal :=
  driveMaster s (burstBundle 4 write size lock c)

/-- NONSEQ.BURST5, INCR8 (R169): `Fatal(BURST)` when committed. -/
def execBurst5 (write : Bool) (size : SizeCode) (lock : Bool) (c : Cmd) (s : State) :
    Host.Outcome State Fault Refusal :=
  driveMaster s (burstBundle 5 write size lock c)

/-- NONSEQ.BURST6, WRAP16 (R169): `Fatal(BURST)` when committed. -/
def execBurst6 (write : Bool) (size : SizeCode) (lock : Bool) (c : Cmd) (s : State) :
    Host.Outcome State Fault Refusal :=
  driveMaster s (burstBundle 6 write size lock c)

/-- NONSEQ.BURST7, INCR16 (R169): `Fatal(BURST)` when committed. -/
def execBurst7 (write : Bool) (size : SizeCode) (lock : Bool) (c : Cmd) (s : State) :
    Host.Outcome State Fault Refusal :=
  driveMaster s (burstBundle 7 write size lock c)

/-- NONSEQ.LOCK (R170): `Fatal(LOCKED)` when committed. -/
def execLock (write : Bool) (size : SizeCode) (c : Cmd) (s : State) : Host.Outcome State Fault Refusal :=
  driveMaster s (xferBundle .single write size 0 true c)

/-- NONSEQ.SIZE5 (R171): `Fatal(SIZE_RESERVED)` when committed. -/
def execSize5 (write : Bool) (c : Cmd) (s : State) : Host.Outcome State Fault Refusal :=
  driveMaster s (xferBundle .single write 5 0 false c)

/-- NONSEQ.SIZE6 (R171): `Fatal(SIZE_RESERVED)` when committed. -/
def execSize6 (write : Bool) (c : Cmd) (s : State) : Host.Outcome State Fault Refusal :=
  driveMaster s (xferBundle .single write 6 0 false c)

/-- NONSEQ.SIZE7 (R171): `Fatal(SIZE_RESERVED)` when committed. -/
def execSize7 (write : Bool) (c : Cmd) (s : State) : Host.Outcome State Fault Refusal :=
  driveMaster s (xferBundle .single write 7 0 false c)

end Sys2Proof.Machine
end

