-- ==== Sys2Proof/Machine/Responses.lean ====
section
/-! DEFINITION. The responses (40_transfers.md R172 to R175): the cycle in which the slave in focus drives the response.
The adapters and the output stage pass it up, and the input stage shows it to the master whose data phase it is. -/

namespace Sys2Proof.Machine

/-- SUCCESS (R172): the data phase in progress ends without error, or there is none. -/
def execSuccess (data : BusValue) (s : State) : Host.Outcome State Fault Refusal :=
  driveSlave s { status := .success, data := data }

/-- PENDING (R173): a wait state. -/
def execPending (data : BusValue) (s : State) : Host.Outcome State Fault Refusal :=
  driveSlave s { status := .pending, data := data }

/-- ERROR1 (R174): the first cycle of an error response. -/
def execError1 (data : BusValue) (s : State) : Host.Outcome State Fault Refusal :=
  driveSlave s { status := .error1, data := data }

/-- ERROR2 (R175): the second cycle of an error response; the data phase ends. -/
def execError2 (data : BusValue) (s : State) : Host.Outcome State Fault Refusal :=
  driveSlave s { status := .error2, data := data }

end Sys2Proof.Machine
end

