-- ==== Sys2Proof/Machine/Writes.lean ====
section
/-! DEFINITION. The writes WR.B to WR.Q (40_transfers.md R161 to R166): the cycle in which the master in focus drives the
write's address phase. Its data is the `dp` the master drives in the cycles of its data phase (R152). -/

namespace Sys2Proof.Machine

/-- WR.B (R162): a single write of 1 byte. -/
def execWrB (c : Cmd) (s : State) : Host.Outcome State Fault Refusal := driveMaster s (writeBundle 0 c)

/-- WR.H (R163): a single write of 2 bytes. -/
def execWrH (c : Cmd) (s : State) : Host.Outcome State Fault Refusal := driveMaster s (writeBundle 1 c)

/-- WR.W (R164): a single write of 4 bytes. -/
def execWrW (c : Cmd) (s : State) : Host.Outcome State Fault Refusal := driveMaster s (writeBundle 2 c)

/-- WR.D (R165): a single write of 8 bytes. -/
def execWrD (c : Cmd) (s : State) : Host.Outcome State Fault Refusal := driveMaster s (writeBundle 3 c)

/-- WR.Q (R166): a single write of 16 bytes. -/
def execWrQ (c : Cmd) (s : State) : Host.Outcome State Fault Refusal := driveMaster s (writeBundle 4 c)

end Sys2Proof.Machine
end

