-- ==== Sys2Proof/Machine/Dispatch.lean ====
section
/-! DEFINITION. exec: the meaning of every message of the opcode table. -/

namespace Sys2Proof.Machine

def exec (i : Instr) (s : State) : Host.Outcome State Fault Refusal :=
  match i with
  | .nosel ready dp => Sys2Proof.Machine.execNosel ready dp s
  | .idle ready dp => Sys2Proof.Machine.execIdle ready dp s
  | .busy write size burst lock c => Sys2Proof.Machine.execBusy write size burst lock c s
  | .seq write size burst lock c => Sys2Proof.Machine.execSeq write size burst lock c s
  | .burst1 write size lock c => Sys2Proof.Machine.execBurst1 write size lock c s
  | .burst2 write size lock c => Sys2Proof.Machine.execBurst2 write size lock c s
  | .burst3 write size lock c => Sys2Proof.Machine.execBurst3 write size lock c s
  | .burst4 write size lock c => Sys2Proof.Machine.execBurst4 write size lock c s
  | .burst5 write size lock c => Sys2Proof.Machine.execBurst5 write size lock c s
  | .burst6 write size lock c => Sys2Proof.Machine.execBurst6 write size lock c s
  | .burst7 write size lock c => Sys2Proof.Machine.execBurst7 write size lock c s
  | .lock write size c => Sys2Proof.Machine.execLock write size c s
  | .size5 write c => Sys2Proof.Machine.execSize5 write c s
  | .size6 write c => Sys2Proof.Machine.execSize6 write c s
  | .size7 write c => Sys2Proof.Machine.execSize7 write c s
  | .rdB c => Sys2Proof.Machine.execRdB c s
  | .rdH c => Sys2Proof.Machine.execRdH c s
  | .rdW c => Sys2Proof.Machine.execRdW c s
  | .rdD c => Sys2Proof.Machine.execRdD c s
  | .rdQ c => Sys2Proof.Machine.execRdQ c s
  | .wrB c => Sys2Proof.Machine.execWrB c s
  | .wrH c => Sys2Proof.Machine.execWrH c s
  | .wrW c => Sys2Proof.Machine.execWrW c s
  | .wrD c => Sys2Proof.Machine.execWrD c s
  | .wrQ c => Sys2Proof.Machine.execWrQ c s
  | .success data => Sys2Proof.Machine.execSuccess data s
  | .pending data => Sys2Proof.Machine.execPending data s
  | .error1 data => Sys2Proof.Machine.execError1 data s
  | .error2 data => Sys2Proof.Machine.execError2 data s
  | .grant => Sys2Proof.Machine.execGrant s
  | .deny => Sys2Proof.Machine.execDeny s

end Sys2Proof.Machine
end

