-- ==== Sys2Proof/Machine/Step.lean ====
section
/-! DEFINITION. One step: one clock cycle (00_scope.md R16, 47_interconnect.md R366), in which the message on the port in
focus is decoded and run; or the power-on reset, while it is asserted (70_reset_and_hazards.md R430). -/

namespace Sys2Proof.Machine

/-- One step of the machine. While reset is asserted no cycle is computed (R432). -/
def step (s : State) : Host.Outcome State Fault Refusal :=
  if s.input.reset then runReset s
  else match decode s.input.bits with
    | .ok i => exec i s
    | .error e => .refused (.undecodable e)

/-- The state whose next step decodes and runs the table word `w` of `nbits` bits (log entry 9). -/
def State.withFetchWord (s : State) (nbits w : Nat) : State :=
  { s with inputs := s.input.withWord nbits w (s.cfg.master 0) :: s.inputs.tail }

end Sys2Proof.Machine
end

