-- ==== Sys2Proof/Safety.lean ====
section
/-! DEFINITION. The terms the claims are stated in: what the agents outside owe the block (40_transfers.md R151, R152),
the invariants the registers keep (10_state.md R40 to R46, 43_input_stage.md R247), the states the completion claims
start from, and the isolated runs of an arbiter and of a write buffer. -/

namespace Sys2Proof.Machine

/-! The messages by format. -/

/-- The bundle a command of a master port puts on its link. -/
def commandBundle : Instr → Option M2S
  | .nosel r dp => some (noSelBundle r dp)
  | .idle r dp => some (idleBundle r dp)
  | .busy w sz b l c => some (xferBundle .busy w sz b l c)
  | .seq w sz b l c => some (xferBundle .seq w sz b l c)
  | .burst1 w sz l c => some (burstBundle 1 w sz l c)
  | .burst2 w sz l c => some (burstBundle 2 w sz l c)
  | .burst3 w sz l c => some (burstBundle 3 w sz l c)
  | .burst4 w sz l c => some (burstBundle 4 w sz l c)
  | .burst5 w sz l c => some (burstBundle 5 w sz l c)
  | .burst6 w sz l c => some (burstBundle 6 w sz l c)
  | .burst7 w sz l c => some (burstBundle 7 w sz l c)
  | .lock w sz c => some (xferBundle .single w sz 0 true c)
  | .size5 w c => some (xferBundle .single w 5 0 false c)
  | .size6 w c => some (xferBundle .single w 6 0 false c)
  | .size7 w c => some (xferBundle .single w 7 0 false c)
  | .rdB c => some (readBundle 0 c)
  | .rdH c => some (readBundle 1 c)
  | .rdW c => some (readBundle 2 c)
  | .rdD c => some (readBundle 3 c)
  | .rdQ c => some (readBundle 4 c)
  | .wrB c => some (writeBundle 0 c)
  | .wrH c => some (writeBundle 1 c)
  | .wrW c => some (writeBundle 2 c)
  | .wrD c => some (writeBundle 3 c)
  | .wrQ c => some (writeBundle 4 c)
  | .success _ => none
  | .pending _ => none
  | .error1 _ => none
  | .error2 _ => none
  | .grant => none
  | .deny => none

/-- The reads of the table with their size codes (R155 to R160). -/
def readRows (c : Cmd) : List (Instr × SizeCode) :=
  [(.rdB c, 0), (.rdH c, 1), (.rdW c, 2), (.rdD c, 3), (.rdQ c, 4)]

/-- The writes of the table with their size codes (R161 to R166). -/
def writeRows (c : Cmd) : List (Instr × SizeCode) :=
  [(.wrB c, 0), (.wrH c, 1), (.wrW c, 2), (.wrD c, 3), (.wrQ c, 4)]

/-- The reserved commands of the table with the fault each raises when committed (R167 to R171). -/
def reservedRows (w : Bool) (sz : SizeCode) (b : BurstCode) (l : Bool) (c : Cmd) : List (Instr × FatalName) :=
  [(.busy w sz b l c, .burst), (.seq w sz b l c, .burst), (.burst1 w sz l c, .burst), (.burst2 w sz l c, .burst),
   (.burst3 w sz l c, .burst), (.burst4 w sz l c, .burst), (.burst5 w sz l c, .burst), (.burst6 w sz l c, .burst),
   (.burst7 w sz l c, .burst), (.lock w sz c, .locked), (.size5 w c, .sizeReserved), (.size6 w c, .sizeReserved),
   (.size7 w c, .sizeReserved)]

/-! What the agents owe the block. -/

/-- What a slave owes (R151 (1) to (3)): the idle response in an idle data phase; ERROR2 exactly after ERROR1; read data
of the read's width exactly in the cycle it ends a read with SUCCESS. `k` is the monitor of the slave's link. -/
def slaveObeys (k : LinkMon) (r : Resp) : Bool :=
  match k.xfer with
  | none => decide (r = idleResp)
  | some _ => decide (k.err1 = decide (r.status = .error2)) && decide (widthOf r.data = k.readWidth r.status)

/-- What a master owes (R152 (2)): write data of the write's width in every cycle of a write's data phase, and none
otherwise. `k` is the monitor of the master's link. -/
def masterObeys (k : LinkMon) (dp : BusValue) : Bool := decide (widthOf dp = k.writeWidth)

/-- The external agents obey in a cycle. -/
abbrev AgentsObey (c : Cycle) : Prop :=
  (∀ m < c.st.cfg.nm, masterObeys (c.st.masterMonitor m) (c.driven m).dp = true) ∧
    ∀ n < c.st.cfg.ns,
      slaveObeys (c.st.slaveMonitor n (c.st.cfg.slave n).chain.length) (c.slaveResp n) = true

/-! The invariants. -/

/-- The lists of the state have the lengths the configuration gives them. -/
abbrev Shaped (s : State) : Prop :=
  s.masters.length = s.cfg.nm ∧ s.slaves.length = s.cfg.ns ∧ s.masterMon.length = s.cfg.nm ∧
    s.slaveMon.length = s.cfg.ns ∧
    ∀ n < s.cfg.ns, (s.slaveMon.getD n []).length = (s.cfg.slave n).chain.length + 1

/-- A held AP is a transfer that passes every check of R245, so it has a target (R247 (2)). -/
def heldPasses (c : Cfg) (m : Nat) (held : Option AP) : Bool :=
  match held with
  | none => true
  | some h =>
    match xferOf h with
    | some x => decide (checkAll c m x = none)
    | none => false

/-- A data phase is at a slave of SLAVES or at the default slave. -/
def knownTarget (c : Cfg) (x : Option Target) : Bool :=
  match x with
  | none => true
  | some .dflt => true
  | some (.slave n) => decide (n < c.ns)

/-- The invariants of R40, R44 and R247, with the default slave's (R186): a master has a held AP or a data phase, not
both; a held AP passes the checks; `dpt` and `downer` name each other, at the default slave's stage too; `dpt = DEF`
exactly while the default slave's data phase is in progress. -/
abbrev RouteInvariant (s : State) : Prop :=
  Shaped s ∧
    (∀ m < s.cfg.nm,
      ((s.master m).is.held ≠ none → (s.master m).is.dpt = none) ∧
        heldPasses s.cfg m (s.master m).is.held = true ∧
        knownTarget s.cfg (s.master m).is.dpt = true ∧
        ((s.master m).is.dpt = some .dflt ↔ (s.master m).dflt ≠ .idle) ∧
        (s.master m).ddowner = (if (s.master m).is.dpt = some .dflt then some m else none) ∧
        ∀ n < s.cfg.ns, (s.master m).is.dpt = some (.slave n) ↔ (s.slave n).downer = some m) ∧
    ∀ n < s.cfg.ns, ∀ m ∈ (s.slave n).downer, m < s.cfg.nm

/-- The invariants of R46 on a write buffer: `bdata` exactly in BufferedWriteAsync, `bap` exactly in the two
BufferedWrite states and then a bufferable write, `held` only in BufferedWriteAsync and IdleInjectionDone and always in
the latter. -/
def wbInvariant (w : WBReg) : Bool :=
  match w.st, w.bap, w.bdata, w.held with
  | .transparent, none, none, none => true
  | .bufferedWriteFirst, some a, none, none => compatible a
  | .bufferedWriteAsync, some a, some _, none => compatible a
  | .bufferedWriteAsync, some a, some _, some h => compatible a && isXfer h
  | .idleInjectionDone, none, none, some h => isXfer h
  | _, _, _, _ => false

/-- A transfer a line buffer of `L` bytes can serve from one line (R294): its bytes lie inside it. -/
def fitsLine (L : Nat) (x : Xfer) : Bool := decide (lineOffset x.addr L + sizeBytes x.size ≤ L)

/-- A held AP of a write buffer, above a line buffer of `L` bytes, fits its line. -/
def heldFits (L : Nat) (w : WBReg) : Bool :=
  match w.held with
  | none => true
  | some h =>
    match xferOf h with
    | some x => fitsLine L x
    | none => true

/-- A line buffer's registers (R45, R74): a resident line has `L` bytes at a multiple of `L`; a fetch is of a multiple of
`L`; the bytes a `Fetching` or `Local` data phase asks for lie inside the line. -/
def lbInvariant (L : Nat) (r : LBReg) : Bool :=
  (!r.valid || (decide (r.laddr.toNat % L = 0) && decide (r.line.length = L))) &&
    match r.st with
    | .idle => true
    | .transparent => true
    | .fetching => decide (r.faddr.toNat % L = 0) && decide (r.off + sizeBytes r.rsize ≤ L)
    | .localHit => decide (r.line.length = L) && decide (r.off + sizeBytes r.rsize ≤ L)

/-- The line-buffer invariant for the line-buffer entry of a chain, if it has one. -/
def chainLBInvariant (q : SlaveRegs) : List Adapter → Bool
  | [] => true
  | .lb L _ :: as => lbInvariant L q.lb && heldFits L q.wb && chainLBInvariant q as
  | .wb :: as => chainLBInvariant q as

/-- The adapters' invariants (R45, R46, R74). -/
abbrev AdapterInvariant (s : State) : Prop :=
  ∀ n < s.cfg.ns,
    wbInvariant (s.slave n).wb = true ∧ chainLBInvariant (s.slave n) (s.cfg.slave n).chain = true

/-- What the data phases on both sides of a line buffer are in each of its states (the table of R291). -/
def lbLinks (L : Nat) (r : LBReg) (u d : LinkMon) : Bool :=
  match r.st, u.xfer, d.xfer with
  | .idle, none, none => !u.err1 && !d.err1
  | .transparent, some x, some y => !x.write && decide (x = y) && decide (u.err1 = d.err1)
  | .fetching, some x, some y =>
    !x.write && decide (x.size = r.rsize) && !y.write && decide (y.size = lineSizeCode L) && decide (u.err1 = d.err1)
  | .localHit, some x, none => !x.write && decide (x.size = r.rsize) && !u.err1 && !d.err1
  | _, _, _ => false

/-- The transfer of an optional AP. -/
def optXfer (ap : Option AP) : Option Xfer :=
  match ap with
  | some a => xferOf a
  | none => none

/-- What the data phases on both sides of a write buffer are in each of its states (the table of R321). -/
def wbLinks (w : WBReg) (u d : LinkMon) : Bool :=
  match w.st with
  | .transparent => decide (u.xfer = d.xfer) && decide (u.err1 = d.err1)
  | .bufferedWriteFirst =>
    decide (u.xfer = optXfer w.bap) && decide (d.xfer = optXfer w.bap) && !u.err1 && !d.err1
  | .bufferedWriteAsync =>
    decide (u.xfer = optXfer w.held) && decide (d.xfer = optXfer w.bap) && !u.err1 &&
      decide (widthOf (w.bdata.getD .absent) = apBytes w.bap)
  | .idleInjectionDone => decide (u.xfer = optXfer w.held) && decide (d.xfer = none) && !u.err1 && !d.err1

/-- The transfer in data phase on a link, if any, has a size that exists in the configuration (R32). -/
def phaseSizeExists (w16 : Bool) (k : LinkMon) : Bool :=
  match k.xfer with
  | some x => sizeCodeExists w16 x.size
  | none => true

/-- The monitors along a chain agree with its adapters' states, and each data phase has a size that exists; `j` is the
index of the link above. -/
def chainLinks (s : State) (n : Nat) : List Adapter → Nat → Bool
  | [], j =>
    phaseSizeExists s.cfg.w16 (s.slaveMonitor n j) &&
      ((s.slaveMonitor n j).xfer.isSome || !(s.slaveMonitor n j).err1)
  | .lb L _ :: as, j =>
    phaseSizeExists s.cfg.w16 (s.slaveMonitor n j) &&
      lbLinks L (s.slave n).lb (s.slaveMonitor n j) (s.slaveMonitor n (j + 1)) && chainLinks s n as (j + 1)
  | .wb :: as, j =>
    phaseSizeExists s.cfg.w16 (s.slaveMonitor n j) &&
      wbLinks (s.slave n).wb (s.slaveMonitor n j) (s.slaveMonitor n (j + 1)) &&
      (decide ((s.slave n).wb.st ≠ .transparent) || (s.slaveMonitor n j).xfer.isSome || !(s.slaveMonitor n j).err1) &&
      chainLinks s n as (j + 1)

/-- Master `m`'s monitor agrees with its input stage: the held AP, the data phase at a slave's output stage, the default
slave's, or an idle data phase; and its data phase has a size that exists. -/
def masterLink (s : State) (m : Nat) : Bool :=
  let k := s.masterMonitor m
  phaseSizeExists s.cfg.w16 k && match (s.master m).is.held, (s.master m).is.dpt with
  | some h, _ => decide (k.xfer = xferOf h) && !k.err1
  | none, some (.slave n) =>
    k.xfer.isSome && decide (k.xfer = (s.slaveMonitor n 0).xfer) && decide (k.err1 = (s.slaveMonitor n 0).err1)
  | none, some .dflt => k.xfer.isSome && decide (k.err1 = decide ((s.master m).dflt = .err2))
  | none, none => k.xfer.isNone && !k.err1

/-- The monitors agree with the registers: every link's data phase is the one the registers say is in progress, of a
size that exists. -/
abbrev LinkInvariant (s : State) : Prop :=
  (∀ m < s.cfg.nm, masterLink s m = true) ∧
    ∀ n < s.cfg.ns,
      chainLinks s n (s.cfg.slave n).chain 0 = true ∧
        ((s.slave n).downer = none → (s.slaveMonitor n 0).xfer = none ∧ (s.slaveMonitor n 0).err1 = false)

/-- The whole invariant of the block. -/
abbrev Invariant (s : State) : Prop := RouteInvariant s ∧ AdapterInvariant s ∧ LinkInvariant s

/-! The states the completion claims start from. -/

/-- A slave's adapters have no transfer in progress; a resident line and the enable may be anything. -/
def adaptersAtRest (q : SlaveRegs) : Bool := decide (q.lb.st = .idle) && decide (q.wb = .reset)

/-- Every slave answers its idle data phase, and no line buffer is asked to toggle. -/
abbrev SlavesRest (inp : CycleInput) : Prop := (∀ r ∈ inp.resp, r = idleResp) ∧ ∀ e ∈ inp.lbEn, e = none

/-- A block at rest: no transfer is held, in data phase or in an adapter, and every port but the one in focus rests.
Arbiters' owners and pointers, and resident lines, may be anything. -/
abbrev AtRest (s : State) : Prop :=
  validCfg s.cfg = true ∧ s.masters = List.replicate s.cfg.nm .reset ∧ s.slaves.length = s.cfg.ns ∧
    (∀ q ∈ s.slaves, q.downer = none ∧ adaptersAtRest q = true) ∧
    (∀ k ∈ s.masterMon, k = .reset) ∧ (∀ ks ∈ s.slaveMon, ∀ k ∈ ks, k = .reset) ∧
    (∀ b ∈ s.input.m2s, b = idleM2S) ∧ SlavesRest s.input

/-- The route to a target is open to master `m` at rest (R438): its own default slave, a SingleMaster stage, a
registered arbiter whose owner it is, or a combinatorial arbiter that may choose it in the same cycle. -/
def routeOpen (s : State) (m : Nat) (x : Target) : Bool :=
  match x with
  | .dflt => true
  | .slave n =>
    match (s.cfg.slave n).arb with
    | .singleMaster m0 => m0 == m
    | .rejecting => false
    | .roundRobin => decide ((s.slave n).arb.owner = some m)
    | .fixedPriority => decide ((s.slave n).arb.owner = some m)
    | .combFixed => (s.slave n).arb.prevReady || decide ((s.slave n).arb.owner = some m)
    | .combFixedReversed => (s.slave n).arb.prevReady || decide ((s.slave n).arb.owner = some m)

/-- A chain has a line buffer. -/
def hasLineBuffer : List Adapter → Bool
  | [] => false
  | .lb _ _ :: _ => true
  | .wb :: as => hasLineBuffer as

/-- A chain has a write buffer. -/
def hasWriteBuffer : List Adapter → Bool
  | [] => false
  | .wb :: _ => true
  | .lb _ _ :: as => hasWriteBuffer as

/-- A transfer whose size code exists in a configuration (R32). -/
def sizeExists (w16 : Bool) (a : AP) : Bool :=
  match xferOf a with
  | some x => sizeCodeExists w16 x.size
  | none => false

/-- The block's one data phase is the transfer `a` of master `m` at slave `n`, which no adapter fronts; `e` says whether
its last response was ERROR1. Every other port rests; master `m` drives the data its transfer needs. -/
abbrev OnePhase (s : State) (m n : Nat) (a : AP) (e : Bool) : Prop :=
  validCfg s.cfg = true ∧ m < s.cfg.nm ∧ n < s.cfg.ns ∧ (s.cfg.slave n).chain = [] ∧
    sizeExists s.cfg.w16 a = true ∧
    s.masters = (List.replicate s.cfg.nm MasterRegs.reset).set m
      { is := { held := none, dpt := some (.slave n) }, dflt := .idle, ddowner := none } ∧
    s.slaves.length = s.cfg.ns ∧
    (∀ k < s.cfg.ns, (s.slave k).downer = (if k = n then some m else none) ∧ adaptersAtRest (s.slave k) = true) ∧
    s.masterMon = (List.replicate s.cfg.nm LinkMon.reset).set m { dp := some a, err1 := e } ∧
    s.slaveMon = (s.cfg.slaves.map fun k => List.replicate (k.chain.length + 1) LinkMon.reset).set n
      [{ dp := some a, err1 := e }]

/-- The write data master `m` owes for the transfer `a` in data phase (R144). -/
def owesData (a : AP) (dp : BusValue) : Bool :=
  match xferOf a with
  | some x => decide (widthOf dp = if x.write then some (sizeBytes x.size) else none)
  | none => false

/-- The read data a slave owes with SUCCESS for the transfer `a` in data phase (R145). -/
def owesRead (a : AP) (data : BusValue) : Bool :=
  match xferOf a with
  | some x => decide (widthOf data = if x.write then none else some (sizeBytes x.size))
  | none => false

/-- Master `m` drives IDLE and `dp`; every other master rests. -/
abbrev OnlyData (s : State) (m : Nat) (dp : BusValue) : Prop :=
  ∀ k < s.cfg.nm, s.input.m2s.getD k idleM2S = if k = m then { ap := idleAP, dp := dp } else idleM2S

/-- The transfer bundle of a command, its ready flag as the input stage sets it for a committed AP (R242). -/
def committedAP (b : M2S) : AP := { asMasterAP b.ap with ready := true }

/-- The line size of the line buffer of a chain, if it has one. -/
def lineSize : List Adapter → Option Nat
  | [] => none
  | .lb L _ :: _ => some L
  | .wb :: as => lineSize as

/-- The line buffer of slave `k` after its chain, at rest, took the read `ap`. -/
def lbAfterRead (s : State) (k : Nat) (ap : AP) : LBReg :=
  match lineSize (s.cfg.slave k).chain with
  | some L => (s.slave k).lb.next L ap idleResp none
  | none => (s.slave k).lb

/-- The write buffer of slave `k` after its chain, at rest, took the transfer `ap`. -/
def wbAfter (s : State) (k : Nat) (ap : AP) : WBReg :=
  if hasWriteBuffer (s.cfg.slave k).chain && compatible ap then
    { st := .bufferedWriteFirst, bap := some ap, bdata := none, held := none }
  else (s.slave k).wb

/-- What a cycle changes whatever happens in it: the arbiters decide, the cycle index and the inputs advance. -/
abbrev CycleAdvances (s t : State) (inp : CycleInput) : Prop :=
  t.cfg = s.cfg ∧ t.cycle = s.cycle + 1 ∧ t.inputs = s.inputs.tail ∧
    ∀ k < s.cfg.ns,
      (t.slave k).arb = (s.slave k).arb.next (s.cfg.slave k).arb (({ st := s, inp := inp } : Cycle).arbIn k)

/-- From a block at rest, master `m`'s transfer `ap` was accepted at `x`; `lb` and `wb` are the adapters' registers
where it went. Nothing else changed but by `CycleAdvances`. -/
abbrev AcceptedAt (s t : State) (inp : CycleInput) (m : Nat) (x : Target) (lb : Nat → LBReg) (wb : Nat → WBReg) : Prop :=
  CycleAdvances s t inp ∧
    (∀ k < s.cfg.nm, t.master k =
      if k = m then
        { is := { held := none, dpt := some x }, dflt := if x = .dflt then .err1 else .idle
          ddowner := if x = .dflt then some m else none }
      else .reset) ∧
    (∀ k < s.cfg.ns,
      (t.slave k).downer = (if x = .slave k then some m else none) ∧
        (t.slave k).lb = (if x = .slave k then lb k else (s.slave k).lb) ∧
        (t.slave k).wb = (if x = .slave k then wb k else (s.slave k).wb)) ∧
    t.last.grants.getD m none = some .grant

/-- From a block at rest, master `m`'s transfer `ap` was denied and is held. Nothing else changed but by
`CycleAdvances`. -/
abbrev HeldAt (s t : State) (inp : CycleInput) (m : Nat) (ap : AP) : Prop :=
  CycleAdvances s t inp ∧
    (∀ k < s.cfg.nm, t.master k =
      if k = m then { is := { held := some ap, dpt := none }, dflt := .idle, ddowner := none } else .reset) ∧
    (∀ k < s.cfg.ns, (t.slave k).downer = none ∧ (t.slave k).lb = (s.slave k).lb ∧ (t.slave k).wb = (s.slave k).wb) ∧
    t.last.grants.getD m none = some .deny

/-- The master in focus also drives a bundle in the current cycle. -/
def State.requesting (s : State) (b : M2S) : State :=
  { s with inputs := s.input.drive s.input.port b :: s.inputs.tail }

/-- The inputs of the cycle an instruction runs. -/
def cycleInput (i : Instr) (s : State) : CycleInput :=
  match i with
  | .success d => s.input.answer s.input.port { status := .success, data := d }
  | .pending d => s.input.answer s.input.port { status := .pending, data := d }
  | .error1 d => s.input.answer s.input.port { status := .error1, data := d }
  | .error2 d => s.input.answer s.input.port { status := .error2, data := d }
  | j =>
    match commandBundle j with
    | some b => s.input.drive s.input.port b
    | none => s.input

/-- The port in focus is a port of the instruction's format: a slave's for a response, else a master's (R110, R140). -/
def portExists (i : Instr) (s : State) : Bool :=
  match i with
  | .success _ => decide (s.input.port < s.cfg.ns)
  | .pending _ => decide (s.input.port < s.cfg.ns)
  | .error1 _ => decide (s.input.port < s.cfg.ns)
  | .error2 _ => decide (s.input.port < s.cfg.ns)
  | _ => decide (s.input.port < s.cfg.nm)

/-- No cause of a fatal fault (R392): every transfer a master's own AP commits passes the checks, and no write is on its
way to a line buffer. -/
abbrev NoFatalCause (c : Cycle) : Prop :=
  (∀ m < c.st.cfg.nm, (c.st.master m).is.held = none → c.committed m = true →
      ∀ x ∈ xferOf (c.driven m).ap, checkAll c.st.cfg m x = none) ∧
    ∀ n < c.st.cfg.ns, hasLineBuffer (c.st.cfg.slave n).chain = true →
      (∀ x ∈ xferOf (c.stageAP n), x.write = false) ∧ ∀ x ∈ optXfer (c.st.slave n).wb.held, x.write = false

/-- Two address phases that differ at most in what the block only carries (R33, R35, R81, R403): `priv`, `data`, the
ready flag of a master's own AP, and the tag. -/
def sameButCarried (a b : AP) : Bool :=
  match a.ctl, b.ctl with
  | .idle, .idle => true
  | .noSel, .noSel => true
  | .xfer x, .xfer y =>
    decide (x.kind = y.kind) && decide (x.write = y.write) && decide (x.size = y.size) && decide (x.burst = y.burst) &&
      decide (x.lock = y.lock) && decide (x.addr = y.addr) && decide (x.prot.bufferable = y.prot.bufferable) &&
      decide (x.prot.cacheable = y.prot.cacheable)
  | _, _ => false

/-- The same of optional address phases. -/
def sameOptAP : Option AP → Option AP → Bool
  | none, none => true
  | some a, some b => sameButCarried a b
  | _, _ => false

/-- The same of two masters' registers. -/
def sameMaster (p q : MasterRegs) : Bool :=
  sameOptAP p.is.held q.is.held && decide (p.is.dpt = q.is.dpt) && decide (p.dflt = q.dflt) &&
    decide (p.ddowner = q.ddowner)

/-- The same of two write buffers. -/
def sameWB (p q : WBReg) : Bool :=
  decide (p.st = q.st) && sameOptAP p.bap q.bap && decide (p.bdata = q.bdata) && sameOptAP p.held q.held

/-- The same of two link monitors. -/
def sameMon (p q : LinkMon) : Bool := sameOptAP p.dp q.dp && decide (p.err1 = q.err1)

/-- Two states that differ at most in what the block only carries: in held and buffered address phases and in the
monitors' (and in the model's own fields inputs and last). -/
abbrev SameButCarried (s t : State) : Prop :=
  s.cfg = t.cfg ∧ s.cycle = t.cycle ∧
    (∀ m < s.cfg.nm, sameMaster (s.master m) (t.master m) = true ∧
      sameMon (s.masterMonitor m) (t.masterMonitor m) = true) ∧
    ∀ n < s.cfg.ns, (s.slave n).arb = (t.slave n).arb ∧ (s.slave n).downer = (t.slave n).downer ∧
      (s.slave n).lb = (t.slave n).lb ∧ sameWB (s.slave n).wb (t.slave n).wb = true ∧
      ∀ j ≤ (s.cfg.slave n).chain.length, sameMon (s.slaveMonitor n j) (t.slaveMonitor n j) = true

/-- Two cycles whose inputs differ at most in what the block only carries. -/
abbrev SameButCarriedInputs (c d : Cycle) : Prop :=
  c.inp.resp = d.inp.resp ∧ c.inp.lbEn = d.inp.lbEn ∧
    ∀ m < c.st.cfg.nm, sameButCarried (c.driven m).ap (d.driven m).ap = true ∧ (c.driven m).dp = (d.driven m).dp

/-- Two stops, if any, that differ at most in what the reported address phase only carries. -/
def sameStop : Option Fault → Option Fault → Bool
  | none, none => true
  | some (.fatal f t p a), some (.fatal g u q b) =>
    decide (f = g) && decide (t = u) && decide (p = q) && sameButCarried a b
  | some (.violation f t p), some (.violation g u q) => decide (f = g) && decide (t = u) && decide (p = q)
  | _, _ => false

/-! Isolated runs of a component. -/

/-- The owners an arbiter decides for over the given cycles, in order. -/
def arbDecisions (k : ArbKind) (a : ArbReg) : List ArbIn → List (Option Nat)
  | [] => []
  | i :: is => (a.next k i).owner :: arbDecisions k (a.next k i) is

/-- A write buffer after the given cycles of upstream bundles and downstream responses. -/
def wbRun (w : WBReg) : List (M2S × Resp) → WBReg
  | [] => w
  | (u, rd) :: is => wbRun (w.next u rd) is

/-- A line buffer after the given cycles of upstream APs and downstream responses, no toggle asked. -/
def lbRun (L : Nat) (r : LBReg) : List (AP × Resp) → LBReg
  | [] => r
  | (a, rd) :: is => lbRun L (r.next L a rd none) is

/-- A stop is of class (a). -/
def isViolation : Host.Outcome State Fault Refusal → Bool
  | .next _ => false
  | .fault (.fatal _ _ _ _) => false
  | .fault (.violation _ _ _) => true
  | .refused _ => false

end Sys2Proof.Machine
end

