-- ==== Sys2Proof/Certificates/Slice0/Obligations.lean ====
section
/-! DEFINITION. The statements for the provers. Each docstring names the rules of spec/ it rests on. -/

section

open Sys2Proof Sys2Proof.Machine

/-! ### Encoding (30_encoding.md) -/

/-- Decoding the encoding of a well-formed instruction gives it back (R110 to R119, R123). -/
def Obligations.DecodeEncodeRoundTrip : Prop :=
  ∀ i : Instr, i.wf = true → decode (encode i) = .ok i

/-- Every control word runs the cycle in which the master in focus drives the address phase `decodeCtl` gives it
(R120): every 16-bit word and every address, with whatever data and in every state. -/
def Obligations.ControlWordDrivesItsAddressPhase : Prop :=
  ∀ (cw : ControlWord) (addr : Addr) (dp : BusValue) (s : State),
    exec (decodeCommand cw addr dp) s = driveMaster s { ap := decodeCtl cw addr, dp := dp }

/-- The decoder gives a control word the first row of the opcode table whose mask and match it has (R123), and every
control word has one. -/
def Obligations.DecoderTakesFirstTableRow : Prop :=
  ∀ (cw : ControlWord) (addr : Addr) (dp : BusValue),
    (decodeCommand cw addr dp).commandRow = firstRow cw ∧ (firstRow cw).isSome = true

/-- R125: the bits a NOSEL and an IDLE ignore have no effect. -/
def Obligations.IgnoredBitsHaveNoEffect : Prop :=
  ∀ (cw cw' : ControlWord) (addr addr' : Addr) (dp : BusValue), cw.getLsbD 15 = cw'.getLsbD 15 →
    (cw.getLsbD 0 = false → cw'.getLsbD 0 = false → decodeCommand cw addr dp = decodeCommand cw' addr' dp) ∧
    (cw.extractLsb' 0 3 = 1 → cw'.extractLsb' 0 3 = 1 → decodeCommand cw addr dp = decodeCommand cw' addr' dp)

/-- The words of R127 decode to the messages they stand for, and so do the four response codes of R117 and the two
grants of R118. -/
def Obligations.SpecWordsDecode : Prop :=
  let plain : Prot := { data := true, priv := true, bufferable := false, cacheable := false }
  decode (.m2s { cw := 0x0001, addr := 0, wt := 0, d := 0 }) = .ok (.idle false .absent) ∧
  decode (.m2s { cw := 0x0C25, addr := 0, wt := 0, d := 0 }) =
    .ok (.rdW { ready := false, prot := plain, addr := 0, dp := .absent }) ∧
  decode (.m2s { cw := 0x2C05, addr := 0x2000, wt := 0, d := 0 }) =
    .ok (.rdB { ready := false, prot := { plain with cacheable := true }, addr := 0x2000, dp := .absent }) ∧
  decode (.m2s { cw := 0x1C2D, addr := 0x1000, wt := 0, d := 0 }) =
    .ok (.wrW { ready := false, prot := { plain with bufferable := true }, addr := 0x1000, dp := .absent }) ∧
  decodeBusValue 3 0xDEADBEEF = .ok (.bytes [0xEF, 0xBE, 0xAD, 0xDE]) ∧
  decode (.m2s { cw := 0x0C25, addr := 0x2000, wt := 0, d := 0 }) =
    .ok (.rdW { ready := false, prot := plain, addr := 0x2000, dp := .absent }) ∧
  decode (.m2s { cw := 0x0000, addr := 0, wt := 0, d := 0 }) = .ok (.nosel false .absent) ∧
  decode (.m2s { cw := 0x0DA5, addr := 0, wt := 0, d := 0 }) =
    .ok (.burst3 false 2 false { ready := false, prot := plain, addr := 0, dp := .absent }) ∧
  decode (.s2m { rw := 1, wt := 0, d := 0 }) = .ok (.success .absent) ∧
  decode (.s2m { rw := 0, wt := 0, d := 0 }) = .ok (.pending .absent) ∧
  decode (.s2m { rw := 2, wt := 0, d := 0 }) = .ok (.error1 .absent) ∧
  decode (.s2m { rw := 3, wt := 0, d := 0 }) = .ok (.error2 .absent) ∧
  decode (.gnt 1) = .ok .grant ∧ decode (.gnt 0) = .ok .deny

/-- Decoding refuses exactly the width tags that are never driven (R119, R124), and the integer a carrier holds is the
low bytes of its payload (R72, R119). -/
def Obligations.WidthTagsAndPayload : Prop :=
  (∀ b : M2SBits, (∃ i, decode (.m2s b) = .ok i) ↔ b.wt ≠ 6 ∧ b.wt ≠ 7) ∧
  (∀ b : S2MBits, (∃ i, decode (.s2m b) = .ok i) ↔ b.wt ≠ 6 ∧ b.wt ≠ 7) ∧
  ∀ (wt : BitVec 3) (d : BitVec 128) (v : BusValue), decodeBusValue wt d = .ok v →
    v.wf = true ∧ busToNat v = (widthOf v).map fun n => d.toNat % 256 ^ n

/-- R72: a data carrier read as a number is the sum of its bytes times powers of 256, and byte `i` of the carrier of a
number is `(v >> 8i) mod 256`. -/
def Obligations.LittleEndianIntegers : Prop :=
  (∀ b : List Byte, leNat b = ((List.range b.length).map fun i => (b.getD i 0).toNat * 256 ^ i).sum) ∧
  (∀ n v i : Nat, i < n → (leBytes n v).length = n ∧ ((leBytes n v).getD i 0).toNat = v / 256 ^ i % 256) ∧
  ∀ n v : Nat, v < 256 ^ n → busToNat (busFromNat n v) = some v

/-! ### Reset (70_reset_and_hazards.md) -/

/-- R431: what reset leaves in every register the spec gives a value, and that the configuration does not change. -/
def Obligations.ResetRegisterValues : Prop :=
  ∀ (c : Cfg) (ins : List CycleInput), validCfg c = true →
    (∀ s : State, s.cfg = c → (applyReset s).cfg = c) ∧
    (∀ m < c.nm,
      ((State.resetOf c ins).master m).is.held = none ∧ ((State.resetOf c ins).master m).is.dpt = none ∧
        ((State.resetOf c ins).master m).dflt = .idle ∧ ((State.resetOf c ins).master m).ddowner = none) ∧
    ∀ n < c.ns, ∀ q : SlaveRegs, (State.resetOf c ins).slave n = q →
      q.arb.ptr = none ∧ q.arb.prevReady = true ∧
        (∀ m, (c.slave n).arb = .singleMaster m → q.arb.owner = some m) ∧
        ((∀ m, (c.slave n).arb ≠ .singleMaster m) → q.arb.owner = none) ∧
        q.downer = none ∧ q.lb.st = .idle ∧ q.lb.valid = false ∧
        (∀ L en0, Adapter.lb L en0 ∈ (c.slave n).chain → q.lb.enabled = en0) ∧
        q.wb.st = .transparent ∧ q.wb.bap = none ∧ q.wb.bdata = none ∧ q.wb.held = none

/-- Reset may be applied in any state, whatever is in progress (R430): the step that sees it asserted computes no cycle
and leaves the reset state of the same configuration (R431); a configuration that has no model has no reset either (R11).
That reset is an input of a step, which consumes one entry of `inputs`, is the model's choice (log entries 17 and 2). -/
def Obligations.ResetDiscardsEverything : Prop :=
  ∀ s : State, s.input.reset = true →
    (validCfg s.cfg = true → step s = .next (State.resetOf s.cfg s.inputs.tail)) ∧
    (validCfg s.cfg = false → step s = .refused .invalidConfig)

/-- R432: no cycle while reset is asserted; in cycle 0 every master sees `{SUCCESS, Absent}` and is committed, and no
stage with a registered arbiter has an owner or accepts anybody. (Reset as an input of a step, the cycle index and the
signals of the last cycle as fields: log entries 17 and 2.) -/
def Obligations.CycleZeroAfterReset : Prop :=
  (∀ s : State, s.input.reset = true → validCfg s.cfg = true → ∃ t, step s = .next t ∧ t.cycle = 0 ∧ t.last = .none) ∧
  ∀ (c : Cfg) (ins : List CycleInput) (inp : CycleInput),
    (∀ m, ({ st := State.resetOf c ins, inp := inp } : Cycle).resp m = { status := .success, data := .absent } ∧
      ({ st := State.resetOf c ins, inp := inp } : Cycle).committed m = true) ∧
    ∀ n < c.ns, (c.slave n).arb = .roundRobin ∨ (c.slave n).arb = .fixedPriority →
      ({ st := State.resetOf c ins, inp := inp } : Cycle).own n = none ∧
        ({ st := State.resetOf c ins, inp := inp } : Cycle).acc n = none

/-- The reset state of every configuration that has a model meets the whole invariant. (The five register fields whose
reset value is the model's choice, log entry 5, may be anything: the invariant reads them only behind `valid`.) -/
def Obligations.ResetMeetsInvariant : Prop :=
  ∀ (c : Cfg) (ins : List CycleInput), validCfg c = true → Sys2Proof.Machine.Invariant (State.resetOf c ins)

/-! ### The step -/

/-- A step in which reset is not asserted runs the instruction the message in focus decodes to. That a step has one
message in focus, which is its instruction, is the model's choice (log entry 1). -/
def Obligations.StepRunsDecodedInstruction : Prop :=
  ∀ (s : State) (i : Instr), s.input.reset = false → decode s.input.bits = .ok i → step s = exec i s

/-- A table word placed by `withFetchWord` is the instruction the very next step runs (log entries 6, 7 and 9: the
placement is the model's choice). -/
def Obligations.TableWordRunsNext : Prop :=
  ∀ (s : State) (nbits w : Nat) (i : Instr), decodeTableWord nbits w = some i →
    step (s.withFetchWord nbits w) = exec i (s.withFetchWord nbits w)

/-- A step never changes the configuration (R10, R431), which is one that has a model (R11); it is a cycle, and advances
the cycle index (R13), or the reset. That the inputs are a field a step consumes, and the cycle index a field, is the
model's choice (log entries 2 and 17). -/
def Obligations.StepKeepsConfiguration : Prop :=
  ∀ s t : State, step s = .next t →
    t.cfg = s.cfg ∧ validCfg s.cfg = true ∧ t.inputs = s.inputs.tail ∧
      ((s.input.reset = true ∧ t.cycle = 0) ∨ (s.input.reset = false ∧ t.cycle = s.cycle + 1))

/-- R185: a configuration with a range whose bounds are not multiples of the widest transfer is refused; in one that is
not refused, no well-formed transfer has bytes in two ranges. -/
def Obligations.RangeGranularity : Prop :=
  (∀ (s : State) (i : Instr) (m : Nat) (r : Range), m < s.cfg.nm → r ∈ (s.cfg.master m).ranges →
    r.base % (if s.cfg.w16 then 16 else 8) ≠ 0 ∨ r.size % (if s.cfg.w16 then 16 else 8) ≠ 0 →
    portExists i s = true → exec i s = .refused .invalidConfig) ∧
  ∀ (c : Cfg) (m link : Nat) (x : Xfer), validCfg c = true → m < c.nm → checkXfer c.w16 link x = none →
    ∀ k < sizeBytes x.size, decodeAddr (c.master m) (x.addr + BitVec.ofNat 32 k) = decodeAddr (c.master m) x.addr

/-! ### Invariants every step keeps -/

/-- R247: the invariants of the input stages, with the default slaves' and the output stages' owners, hold at reset, and
every step from any state that has them keeps them, whatever the agents do. -/
def Obligations.RouteInvariantKept : Prop :=
  (∀ (c : Cfg) (ins : List CycleInput), RouteInvariant (State.resetOf c ins)) ∧
  ∀ s t : State, RouteInvariant s → step s = .next t → RouteInvariant t

/-- The adapters' invariants of R45, R46 and R74, from any state that has them and whatever the agents do: a write buffer
has its registers exactly in its states' table, a line has its `L` bytes and no sub-range passes its end. -/
def Obligations.AdapterInvariantKept : Prop :=
  ∀ s t : State, RouteInvariant s → AdapterInvariant s → step s = .next t → AdapterInvariant t

/-- While the agents obey R151 and R152, every link's data phase stays the one the registers of both its ends say (the
tables of R291 and R321, R246, R269), of a size that exists in the configuration (R32). -/
def Obligations.LinkInvariantKept : Prop :=
  ∀ (s t : State) (i : Instr), Sys2Proof.Machine.Invariant s → AgentsObey { st := s, inp := cycleInput i s } →
    exec i s = .next t → LinkInvariant t

/-- The block's own rules never cause a violation (R394): in every state with the invariant, while the agents obey, no
instruction stops with one. -/
def Obligations.ObedientAgentsNoViolation : Prop :=
  ∀ (s : State) (i : Instr), Sys2Proof.Machine.Invariant s → AgentsObey { st := s, inp := cycleInput i s } →
    isViolation (exec i s) = false

/-- Every command and every response completes: in every state with the invariant, on a port of its format, while the
agents obey and nothing of R392 is asked, the cycle runs to its edge with no stop. -/
def Obligations.CommandsAndResponsesComplete : Prop :=
  ∀ (s : State) (i : Instr), i ≠ .grant → i ≠ .deny → portExists i s = true → validCfg s.cfg = true →
    Sys2Proof.Machine.Invariant s → AgentsObey { st := s, inp := cycleInput i s } →
    NoFatalCause { st := s, inp := cycleInput i s } →
    exec i s = .next ({ st := s, inp := cycleInput i s } : Cycle).edge

/-- In every cycle with no stop, GRANT runs exactly when the grant wire of the master in focus carries it, and DENY
likewise (R118, R265; log entry 8). -/
def Obligations.GrantMessagesComplete : Prop :=
  ∀ s : State, s.input.port < s.cfg.nm → validCfg s.cfg = true →
    ({ st := s, inp := s.input } : Cycle).stop = none →
    (exec .grant s = .next ({ st := s, inp := s.input } : Cycle).edge ↔
      ({ st := s, inp := s.input } : Cycle).grant s.input.port = some .grant) ∧
    (exec .deny s = .next ({ st := s, inp := s.input } : Cycle).edge ↔
      ({ st := s, inp := s.input } : Cycle).grant s.input.port = some .deny)

/-! ### Grants, routes and responses (43_input_stage.md, 44_output_stage.md) -/

/-- R266: a master whose address phase is a transfer receives exactly one of GRANT and DENY, from its target, in the same
cycle; one whose address phase is not receives none. No MISSING_GRANT can arise. -/
def Obligations.GrantTotality : Prop :=
  ∀ (c : Cycle) (m : Nat),
    (∀ x, c.target m = some x →
      (c.portGrant m x = some .grant ∨ c.portGrant m x = some .deny) ∧ ∀ y, y ≠ x → c.portGrant m y = none) ∧
    (c.target m = none → ∀ y, c.portGrant m y = none) ∧ c.missingGrant m = none

/-- R264: at most one master is accepted per output stage and cycle: it is the owner, its transfer is committed, the link
below is ready, and its transfer is what the stage forwards. -/
def Obligations.AcceptedTransferIsForwarded : Prop :=
  ∀ (c : Cycle) (n m : Nat), c.portGrant m (.slave n) = some .grant →
    c.own n = some m ∧ c.acc n = some m ∧ c.rdy n = true ∧ c.committed m = true ∧ c.target m = some (.slave n) ∧
      isXfer (c.cand m) = true ∧ (c.stageAP n).ctl = (c.cand m).ctl ∧ (c.stageAP n).ready = true ∧
      ∀ k, c.portGrant k (.slave n) = some .grant → k = m

/-- R263: an output stage forwards its owner's committed transfer with the link's own ready flag, else Idle; its slave side
never sees NoSel and never sees an uncommitted transfer. -/
def Obligations.ForwardedPhaseIsCommitted : Prop :=
  ∀ (c : Cycle) (n : Nat),
    (∀ m, c.own n = some m → c.target m = some (.slave n) → c.committed m = true →
      c.stageAP n = { ctl := (c.cand m).ctl, ready := c.rdy n, tag := (c.cand m).tag }) ∧
    ((∀ m, c.own n = some m → ¬(c.target m = some (.slave n) ∧ c.committed m = true)) →
      c.stageAP n = { ctl := .idle, ready := c.rdy n, tag := none }) ∧
    (c.stageAP n).ctl ≠ .noSel

/-- A granted transfer's data phase is at its target from the next cycle, at both ends (R246, R269, R186). And the write
data of a data phase (R244, R267): an input stage sends its master's to the port of `dpt` alone; the link below an output
stage carries the data-route owner's and nobody else's, absent with no owner, and what the other masters drive makes no
difference to it nor to the data that reaches the slave. -/
def Obligations.GrantStartsDataPhase : Prop :=
  (∀ (s t : State) (inp : CycleInput) (m : Nat), m < s.cfg.nm → runCycle s inp = .next t →
    ({ st := s, inp := inp } : Cycle).grant m = some .grant →
    (t.master m).is = { held := none, dpt := ({ st := s, inp := inp } : Cycle).target m } ∧
      (({ st := s, inp := inp } : Cycle).target m = some .dflt →
        (t.master m).dflt = .err1 ∧ (t.master m).ddowner = some m) ∧
      ∀ n, ({ st := s, inp := inp } : Cycle).target m = some (.slave n) → (t.slave n).downer = some m ∧
        ∀ inp', ({ st := t, inp := inp' } : Cycle).stageData n = (({ st := t, inp := inp' } : Cycle).driven m).dp) ∧
  (∀ (c : Cycle) (m : Nat) (x : Target),
    c.writeData m x = if (c.st.master m).is.dpt = some x then (c.driven m).dp else .absent) ∧
  ∀ (c : Cycle) (n : Nat), n < c.st.cfg.ns → RouteInvariant c.st →
    (∀ m, (c.st.slave n).downer = some m → c.stageData n = (c.driven m).dp ∧
      ∀ d : Cycle, c.st = d.st → (c.driven m).dp = (d.driven m).dp →
        d.stageData n = c.stageData n ∧ (d.toSlave n).dp = (c.toSlave n).dp) ∧
    ((c.st.slave n).downer = none → c.stageData n = .absent) ∧
    ((c.st.cfg.slave n).chain = [] → (c.toSlave n).dp = c.stageData n)

/-- R272: a denied committed transfer is held, its master's next cycle is a wait state, and what its input stage offers
then is that transfer again; no output stage has its data phase. -/
def Obligations.DeniedTransferIsHeld : Prop :=
  ∀ (s t : State) (inp : CycleInput) (m : Nat), RouteInvariant s → m < s.cfg.nm → runCycle s inp = .next t →
    ({ st := s, inp := inp } : Cycle).grant m = some .deny → ({ st := s, inp := inp } : Cycle).committed m = true →
    (t.master m).is = { held := some (({ st := s, inp := inp } : Cycle).cand m), dpt := none } ∧
      (∀ n < s.cfg.ns, (t.slave n).downer ≠ some m) ∧
      ∀ inp', ({ st := t, inp := inp' } : Cycle).resp m = { status := .pending, data := .absent } ∧
        ({ st := t, inp := inp' } : Cycle).committed m = true ∧
        ({ st := t, inp := inp' } : Cycle).cand m = ({ st := s, inp := inp } : Cycle).cand m

/-- An uncommitted address phase is not checked, not accepted and not sampled: the input stage keeps its registers
(R245, R246, R264). -/
def Obligations.UncommittedIsNeverSampled : Prop :=
  ∀ (s t : State) (inp : CycleInput) (m : Nat), m < s.cfg.nm → runCycle s inp = .next t →
    ({ st := s, inp := inp } : Cycle).committed m = false →
    ({ st := s, inp := inp } : Cycle).stageFault m = none ∧ (t.master m).is = (s.master m).is ∧
      (∀ x, ({ st := s, inp := inp } : Cycle).portGrant m x ≠ some .grant) ∧
      ∀ n, ({ st := s, inp := inp } : Cycle).acc n ≠ some m

/-- R268: a slave's response reaches exactly the data-route owner of its output stage, unchanged, and with no owner any
but the idle response is a violation; what a slave answers makes no difference in that cycle to the response and HREADY of
a master that is not its owner. (In later cycles such a master can tell: a waiting slave denies its request.) -/
def Obligations.ResponseReachesItsMasterOnly : Prop :=
  (∀ (c : Cycle) (n m : Nat),
    ((c.st.slave n).downer = some m → c.portResp m (.slave n) = c.stageResp n) ∧
      ((c.st.slave n).downer ≠ some m → c.portResp m (.slave n) = { status := .success, data := .absent }) ∧
      ((c.st.slave n).downer = none → c.stageResp n ≠ { status := .success, data := .absent } →
        c.strayResponse n = some (.violation .idleResponse c.st.cycle (.outputStage n)))) ∧
  ∀ (c d : Cycle) (n m : Nat), c.st = d.st → (∀ k, k ≠ n → c.slaveResp k = d.slaveResp k) →
    (c.st.slave n).downer ≠ some m → c.resp m = d.resp m ∧ c.committed m = d.committed m

/-- The only component that originates an error is a default slave; a slave's error is passed unchanged to the master
whose data phase it ends by every chain of adapters, none or some, whose line buffer if any is Transparent or Fetching and
whose write buffer if any is Transparent (R391). -/
def Obligations.ErrorsOriginateAtSlaves : Prop :=
  (∀ (c : Cycle) (m : Nat), (∀ n, (c.slaveResp n).status = .success ∨ (c.slaveResp n).status = .pending) →
    (c.resp m).status = .error1 ∨ (c.resp m).status = .error2 → (c.st.master m).is.dpt = some .dflt) ∧
  ∀ (c : Cycle) (m n : Nat) (st : Status), st = .error1 ∨ st = .error2 →
    c.slaveResp n = { status := st, data := .absent } →
    (hasLineBuffer (c.st.cfg.slave n).chain = true →
      (c.st.slave n).lb.st = .transparent ∨ (c.st.slave n).lb.st = .fetching) →
    (hasWriteBuffer (c.st.cfg.slave n).chain = true → (c.st.slave n).wb.st = .transparent) →
    (c.st.master m).is = { held := none, dpt := some (.slave n) } → (c.st.slave n).downer = some m →
    c.resp m = { status := st, data := .absent }

/-- Privilege, the data bit, a master's own ready flag and the tag decide nothing (R33, R35, R81, R403; the master's own
ready flag: log entry 15). Two states that differ in these bits alone, in held and buffered address phases too, with
inputs that differ in them alone: every master gets the same response and grant, every stage accepts the same and drives
its slave the same but for them, the cycles stop alike or not at all, and the states at the next edge differ in them alone
again. -/
def Obligations.CarriedBitsDecideNothing : Prop :=
  ∀ c d : Cycle, RouteInvariant c.st → SameButCarried c.st d.st → SameButCarriedInputs c d →
    (∀ m < c.st.cfg.nm, c.resp m = d.resp m ∧ c.committed m = d.committed m ∧ c.grant m = d.grant m) ∧
      (∀ n < c.st.cfg.ns, c.acc n = d.acc n ∧ c.own n = d.own n ∧ (c.toSlave n).dp = (d.toSlave n).dp ∧
        sameButCarried (c.toSlave n).ap (d.toSlave n).ap = true) ∧
      sameStop c.stop d.stop = true ∧ SameButCarried c.edge d.edge

/-- R399 (1) and (2): a class (b) fault is reported before any violation; the first input stage in MASTERS order with one
names it, and only when no input stage has one, the first line buffer in SLAVES order. -/
def Obligations.FatalBeforeViolation : Prop :=
  (∀ (c : Cycle) (m : Nat) (f : Fault), m < c.st.cfg.nm → c.stageFault m = some f →
    (∀ k < m, c.stageFault k = none) → c.stop = some f) ∧
  ∀ (c : Cycle) (n : Nat) (f : Fault), n < c.st.cfg.ns → c.lineFault n = some f →
    (∀ m < c.st.cfg.nm, c.stageFault m = none) → (∀ k < n, c.lineFault k = none) → c.stop = some f

/-! ### Arbiters (42_arbiter.md) -/

/-- R211: under a round robin, a master that requests in each of `N` consecutive cycles in which the slave link is ready is
decided for in one of them; a cycle in which it is not repeats the decision. (The lock branch, which R203 says is
unreachable and LockNeverReachesArbiter states so, is excluded by a premise.) -/
def Obligations.RoundRobinFairness : Prop :=
  (∀ (a : ArbReg) (m N : Nat) (is : List ArbIn), m < N → is.length = N →
    (∀ i ∈ is, i.nm = N ∧ i.rdy = true ∧ lockFlag i.last = false ∧ m ∈ i.reqs) →
    some m ∈ arbDecisions .roundRobin a is) ∧
  ∀ (a : ArbReg) (i : ArbIn), i.rdy = false → (a.next .roundRobin i).owner = a.owner

/-- R204: the whole decision of a round robin: it holds while the slave link waits or the lock is set; else it takes the
requester nearest after the last decided for, wrapping; else it parks on an idle owner; and the pointer follows. -/
def Obligations.RoundRobinDecision : Prop :=
  ∀ (a : ArbReg) (i : ArbIn), (∀ m ∈ i.reqs, m < i.nm) →
    let start : Nat := match a.ptr with
      | some p => p + 1
      | none => 0
    let gap : Nat → Nat := fun m => if start ≤ m then m - start else m + i.nm - start
    let b := a.next .roundRobin i
    a.own .roundRobin i.reqs i.downer = a.owner ∧
    (i.rdy = false ∨ lockFlag i.last = true → b.owner = a.owner) ∧
    (i.rdy = true → lockFlag i.last = false →
      (i.reqs ≠ [] → ∃ m ∈ i.reqs, b.owner = some m ∧ ∀ k ∈ i.reqs, gap m ≤ gap k) ∧
      (i.reqs = [] → b.owner = if i.last.ctl = .idle then a.owner else none)) ∧
    b.ptr = (if b.owner = none then a.ptr else b.owner) ∧ b.prevReady = a.prevReady

/-- R206: the whole decision of a registered fixed priority. -/
def Obligations.FixedPriorityDecision : Prop :=
  ∀ (a : ArbReg) (i : ArbIn), i.reqs.Pairwise (· < ·) →
    let b := a.next .fixedPriority i
    a.own .fixedPriority i.reqs i.downer = a.owner ∧
    (i.rdy = false ∨ lockFlag i.last = true → b.owner = a.owner) ∧
    (i.rdy = true → lockFlag i.last = false →
      (i.reqs ≠ [] → ∃ m ∈ i.reqs, b.owner = some m ∧ ∀ k ∈ i.reqs, m ≤ k) ∧
      (i.reqs = [] → b.owner = if a.owner ≠ none ∧ i.downer = a.owner then a.owner else none)) ∧
    b.ptr = a.ptr ∧ b.prevReady = a.prevReady

/-- R207 and R208: the same-cycle decision of the combinatorial variants: hold after a wait state; else the lowest
requester, or the highest in the reversed variant; else the owner of the data route, if it owned the address route. -/
def Obligations.CombinatorialDecision : Prop :=
  ∀ (a : ArbReg) (i : ArbIn) (k : ArbKind), k = .combFixed ∨ k = .combFixedReversed → i.reqs.Pairwise (· < ·) →
    let own := a.own k i.reqs i.downer
    (a.prevReady = false → own = a.owner) ∧
    (a.prevReady = true →
      (i.reqs ≠ [] → ∃ m ∈ i.reqs, own = some m ∧
        ∀ j ∈ i.reqs, (k = .combFixed → m ≤ j) ∧ (k = .combFixedReversed → j ≤ m)) ∧
      (i.reqs = [] → own = if a.owner ≠ none ∧ i.downer = a.owner then a.owner else none)) ∧
    a.next k i = { owner := own, ptr := a.ptr, prevReady := i.rdy }

/-- R202 and R209 in a configuration that has a model: the constant owners, and no FOREIGN_MASTER can arise. -/
def Obligations.ForeignMasterUnreachable : Prop :=
  ∀ (c : Cycle) (n : Nat), validCfg c.st.cfg = true → n < c.st.cfg.ns →
    c.foreignMaster n = none ∧
      (∀ m, (c.st.cfg.slave n).arb = .singleMaster m → c.own n = some m ∧ ∀ k ∈ c.reqs n, k = m) ∧
      ((c.st.cfg.slave n).arb = .rejecting → c.own n = none ∧ c.reqs n = [] ∧ (c.stageAP n).ctl = .idle)

/-- The lock branch of the arbiters is unreachable (R203): in a cycle that does not stop, from a state with the
invariant, no output stage forwards a locked transfer. -/
def Obligations.LockNeverReachesArbiter : Prop :=
  ∀ (c : Cycle) (n : Nat), RouteInvariant c.st → c.stop = none → lockFlag (c.stageAP n) = false

/-! ### Decoder and default slave (41_decoder.md) -/

/-- R181: the range that covers an address names its target; at most one does; an address none covers is the default
slave's or has no target; a range is half-open. -/
def Obligations.DecodedTarget : Prop :=
  ∀ (c : Cfg) (m : Nat) (a : Addr), validCfg c = true → m < c.nm →
    (∀ r ∈ (c.master m).ranges, r.base ≤ a.toNat → a.toNat < r.base + r.size →
      decodeAddr (c.master m) a = some (.slave r.slave) ∧
        ∀ q ∈ (c.master m).ranges, q.base ≤ a.toNat → a.toNat < q.base + q.size → q = r) ∧
    ((∀ r ∈ (c.master m).ranges, ¬(r.base ≤ a.toNat ∧ a.toNat < r.base + r.size)) →
      decodeAddr (c.master m) a = (if (c.master m).unmapped = .defaultSlave then some .dflt else none))

/-- R183: an Idle candidate reaches every port; a transfer reaches exactly the port of its target, every other one seeing
NoSel with the candidate's ready flag and tag. -/
def Obligations.RoutingReachesOnePort : Prop :=
  ∀ (c : Cycle) (m : Nat),
    ((c.cand m).ctl = .idle → ∀ x, c.contrib m x = c.cand m) ∧
    (∀ f, (c.cand m).ctl = .xfer f → ∀ x,
      (decodeAddr (c.st.cfg.master m) f.addr = some x → c.contrib m x = c.cand m) ∧
      (decodeAddr (c.st.cfg.master m) f.addr ≠ some x →
        c.contrib m x = { ctl := .noSel, ready := (c.cand m).ready, tag := (c.cand m).tag })) ∧
    ((c.st.master m).is.held = none → (c.cand m).ctl ≠ .noSel)

/-- R76: an aligned transfer of at most 16 bytes never crosses a 1 KB boundary and never wraps, so no transfer fails that
check. -/
def Obligations.AlignedNeverCrosses1KB : Prop :=
  ∀ (w16 : Bool) (link : Nat) (x : Xfer),
    (x.size.toNat ≤ 4 → x.addr.toNat % sizeBytes x.size = 0 →
      x.addr.toNat / 1024 = (x.addr.toNat + sizeBytes x.size - 1) / 1024 ∧
        x.addr.toNat + sizeBytes x.size ≤ 2 ^ 32) ∧
    checkXfer w16 link x ≠ some .boundary1KB

/-- The default slave's two-cycle error (R186): a committed transfer of an unmapped address is granted at once; its
master sees ERROR1 in the next cycle and ERROR2 in the one after, whatever else happens. -/
def Obligations.DefaultSlaveTwoCycleError : Prop :=
  ∀ (s t : State) (inp : CycleInput) (m : Nat), RouteInvariant s → m < s.cfg.nm → runCycle s inp = .next t →
    ({ st := s, inp := inp } : Cycle).target m = some .dflt → ({ st := s, inp := inp } : Cycle).committed m = true →
    ({ st := s, inp := inp } : Cycle).grant m = some .grant ∧
      ∀ inp', ({ st := t, inp := inp' } : Cycle).resp m = { status := .error1, data := .absent } ∧
        ({ st := t, inp := inp' } : Cycle).committed m = false ∧
        ∀ u, runCycle t inp' = .next u →
          ∀ inp'', ({ st := u, inp := inp'' } : Cycle).resp m = { status := .error2, data := .absent } ∧
            ({ st := u, inp := inp'' } : Cycle).committed m = true

/-! ### Line buffer (45_line_buffer.md) -/

/-- R293: a write a line buffer samples stops the block, whatever its other bits and the enable, when no input stage has a
fault and no line buffer of an earlier slave; one it does not sample passes down unchanged and is no fault. -/
def Obligations.LineBufferWriteIsFatal : Prop :=
  (∀ (s : State) (inp : CycleInput) (n L : Nat) (en0 : Bool) (u : M2S) (rd : Resp) (x : Xfer),
    validCfg s.cfg = true → n < s.cfg.ns → (Adapter.lb L en0, u, rd) ∈ ({ st := s, inp := inp } : Cycle).ports n →
    xferOf u.ap = some x → x.write = true → hready ((s.slave n).lb.up rd) = true →
    (∀ m < s.cfg.nm, ({ st := s, inp := inp } : Cycle).stageFault m = none) →
    (∀ k < n, ({ st := s, inp := inp } : Cycle).lineFault k = none) →
    runCycle s inp = .fault (.fatal .lbWrite s.cycle (.lineBuffer n) u.ap)) ∧
  ∀ (r : LBReg) (L : Nat) (ap : AP) (rd : Resp) (x : Xfer), xferOf ap = some x → x.write = true →
    hready (r.up rd) = false → r.writeSampled L ap rd = false ∧ (r.down L ap rd).ap.ctl = ap.ctl

/-- R294: the requested bytes of an aligned read no wider than the line lie inside one line: the offset is the distance
from the line address, and the extraction has exactly the bytes at the read's own addresses. -/
def Obligations.SubRangeStaysInLine : Prop :=
  ∀ (L : Nat) (x : Xfer), L = 2 ∨ L = 4 ∨ L = 8 ∨ L = 16 → sizeBytes x.size ≤ L →
    x.addr.toNat % sizeBytes x.size = 0 →
    (alignDown x.addr L).toNat + lineOffset x.addr L = x.addr.toNat ∧
      lineOffset x.addr L + sizeBytes x.size ≤ L ∧
      ∀ line : List Byte, line.length = L →
        ∃ b, extract line (lineOffset x.addr L) (sizeBytes x.size) = .bytes b ∧ b.length = sizeBytes x.size ∧
          ∀ i < sizeBytes x.size, b.getD i 0 = line.getD (x.addr.toNat + i - (alignDown x.addr L).toNat) 0

/-- R296: a miss drives downstream one single read of the whole aligned line, not cacheable, its other protection bits
kept. And what is no miss (R292, R299, R301): a read that is not cacheable, or any read while the cache is off, is a PASS;
it goes downstream unchanged, its response comes back unchanged, and it fills nothing. -/
def Obligations.MissFetchesWholeLine : Prop :=
  (∀ (r : LBReg) (L : Nat) (ap : AP) (rd : Resp) (x : Xfer), L = 2 ∨ L = 4 ∨ L = 8 ∨ L = 16 → xferOf ap = some x →
    r.classify L ap rd = .miss →
    ∃ y : Xfer, (r.down L ap rd).ap.ctl = .xfer y ∧ (r.down L ap rd).dp = .absent ∧ y.kind = .single ∧
      y.write = false ∧ sizeBytes y.size = L ∧ y.burst = 0 ∧ y.lock = false ∧
      y.prot = { x.prot with cacheable := false } ∧ y.addr = alignDown x.addr L ∧ y.addr.toNat % L = 0) ∧
  ∀ (r : LBReg) (L : Nat) (ap : AP) (rd : Resp) (x : Xfer), xferOf ap = some x → x.write = false →
    (r.classify L ap rd = .pass ↔ x.prot.cacheable = false ∨ r.enabled = false) ∧
    (r.classify L ap rd = .pass →
      r.down L ap rd = { ap := { ctl := ap.ctl, ready := hready rd, tag := ap.tag }, dp := .absent } ∧
      (hready (r.up rd) = true →
        let q := r.next L ap rd none
        q = { r.fill rd with st := .transparent } ∧ (r.st ≠ .fetching → r.fill rd = r) ∧
        ∀ (ap' : AP) (rd' : Resp), q.up rd' = rd' ∧ (q.next L ap' rd' none).valid = q.valid ∧
          (q.next L ap' rd' none).laddr = q.laddr ∧ (q.next L ap' rd' none).line = q.line))

/-- Line-buffer idempotence (R302, R295): a cacheable read that misses, any wait states, and a second cacheable read of
the same line sampled in the cycle the fetch completes: both return the bytes of that one fetch, and the second sends
nothing downstream. And a hit on a line already resident (R292, R295), after any number of idle cycles: it sends nothing
downstream, is answered in its first cycle from the line, whatever the slave does, and the line stays. -/
def Obligations.LineBufferIdempotence : Prop :=
  (∀ (r : LBReg) (L : Nat) (a1 a2 : AP) (x y : Xfer) (rd : Resp) (waits : List (AP × Resp)) (F : List Byte),
    xferOf a1 = some x → r.classify L a1 rd = .miss → hready (r.up rd) = true →
    (∀ w ∈ waits, w.2.status = .pending) → F.length = L →
    xferOf a2 = some y → y.write = false → y.prot.cacheable = true → alignDown y.addr L = alignDown x.addr L →
    let q := lbRun L (r.next L a1 rd none) waits
    let done : Resp := { status := .success, data := .bytes F }
    (r.down L a1 rd).ap.ctl = .xfer (fetchXfer L x) ∧
      q.up done = { status := .success, data := extract F (lineOffset x.addr L) (sizeBytes x.size) } ∧
      (q.down L a2 done).ap.ctl = .idle ∧
      (q.next L a2 done none).up idleResp =
        { status := .success, data := extract F (lineOffset y.addr L) (sizeBytes y.size) } ∧
      (q.next L a2 done none).valid = true ∧ (q.next L a2 done none).laddr = alignDown x.addr L ∧
      (q.next L a2 done none).line = F) ∧
  ∀ (r : LBReg) (L : Nat) (a : AP) (y : Xfer) (rd : Resp) (between : List (AP × Resp)),
    r.st ≠ .fetching → r.enabled = true → r.valid = true →
    (∀ w ∈ between, isXfer w.1 = false ∧ hready w.2 = true) →
    xferOf a = some y → y.write = false → y.prot.cacheable = true → alignDown y.addr L = r.laddr →
    let q := lbRun L r between
    hready (q.up rd) = true →
    q.valid = true ∧ q.laddr = r.laddr ∧ q.line = r.line ∧ (q.down L a rd).ap.ctl = .idle ∧
      (∀ rd', (q.next L a rd none).up rd' =
        { status := .success, data := extract r.line (lineOffset y.addr L) (sizeBytes y.size) }) ∧
      (q.next L a rd none).st = .localHit ∧ (q.next L a rd none).valid = true ∧
      (q.next L a rd none).laddr = r.laddr ∧ (q.next L a rd none).line = r.line

/-- A fetch that ends with an error fills nothing, and the error reaches the upstream (R298, R301). -/
def Obligations.FailedFetchFillsNothing : Prop :=
  ∀ (r : LBReg) (L : Nat) (ap : AP) (rd : Resp), r.st = .fetching → rd.status ≠ .success →
    r.up rd = { status := rd.status, data := .absent } ∧ (r.next L ap rd none).valid = r.valid ∧
      (r.next L ap rd none).laddr = r.laddr ∧ (r.next L ap rd none).line = r.line ∧
      (rd.status = .pending ∨ rd.status = .error1 → r.next L ap rd none = r)

/-- R300: the enable takes effect, and clears the line, at exactly the edges that no fetch crosses; a fetch outstanding
makes the request wait; the line's bytes stay. -/
def Obligations.EnableToggle : Prop :=
  ∀ (r : LBReg) (L : Nat) (ap : AP) (rd : Resp) (e : Bool),
    let q := r.next L ap rd none
    let t := r.next L ap rd (some e)
    t.st = q.st ∧ t.line = q.line ∧ t.off = q.off ∧ t.rsize = q.rsize ∧
      (e ≠ r.enabled → q.st ≠ .fetching → t.enabled = e ∧ t.valid = false) ∧
      (e = r.enabled ∨ q.st = .fetching → t.enabled = r.enabled ∧ t.valid = q.valid)

/-! ### Write buffer (46_write_buffer.md) -/

/-- The write-buffer round trip (R324, R331): a bufferable write accepted in Transparent is passed down in that cycle, is
answered SUCCESS upstream in its first data-phase cycle, and its data is driven downstream in every cycle of its data
phase, live in the first and replayed after, whatever the upstream drives then. If the slave ends it in its first cycle,
nothing was kept; if it waits, the data is kept until the slave ends it and is then gone. It is passed down once: the AP
that follows it downstream is Idle or one the upstream offered after it, the first of them a transfer being the one
held. -/
def Obligations.WriteBufferRoundTrip : Prop :=
  ∀ (w : WBReg) (u0 : M2S) (rd0 : Resp), w.st = .transparent → wbInvariant w = true → compatible u0.ap = true →
    hready rd0 = true →
    let w1 := w.next u0 rd0
    (w.down u0 rd0).ap.ctl = u0.ap.ctl ∧
      w1 = { st := .bufferedWriteFirst, bap := some u0.ap, bdata := none, held := none } ∧
      (∀ rd, w1.up rd = { status := .success, data := .absent }) ∧ (∀ u rd, (w1.down u rd).dp = u.dp) ∧
      (∀ (u1 : M2S) (rd1 : Resp), rd1.status = .success →
        (w1.down u1 rd1).ap.ctl = u1.ap.ctl ∧
          w1.next u1 rd1 =
            (if compatible u1.ap then { st := .bufferedWriteFirst, bap := some u1.ap, bdata := none, held := none }
              else .reset)) ∧
      ∀ (u1 : M2S) (rd1 : Resp) (waits : List (M2S × Resp)), rd1.status = .pending →
        (∀ p ∈ waits, p.2.status = .pending) →
        let q := wbRun w1 ((u1, rd1) :: waits)
        q = { st := .bufferedWriteAsync, bap := some u0.ap, bdata := some u1.dp
              held := ((u1 :: waits.map Prod.fst).map M2S.ap).find? isXfer } ∧
          ((w1.down u1 rd1).ap.ctl = if compatible u1.ap then u1.ap.ctl else .idle) ∧
          (∀ u rd, (q.down u rd).dp = u1.dp) ∧
          (∀ u rd, (q.down u rd).ap.ctl = .idle ∨ (q.down u rd).ap.ctl = (q.held.getD u.ap).ctl) ∧
          ∀ u rd, rd.status = .success → (q.next u rd).bdata = none ∧ (q.next u rd).st ≠ .bufferedWriteAsync

/-- Later transfers wait (R327, R328). In the buffered write's first cycle: if the slave ends it, the next transfer is
passed down, and becomes the next buffered write if it is one; else it is taken and held, the write and its data kept.
After that, while the write has not ended, the next transfer is kept, held if its upstream was told SUCCESS. In the cycle
the slave ends the write with SUCCESS, a bufferable write is passed down and becomes the next; any other transfer is
passed down only after an injected idle phase. -/
def Obligations.LaterTransfersWait : Prop :=
  (∀ (w : WBReg) (u : M2S) (rd : Resp), wbInvariant w = true → w.st = .bufferedWriteFirst →
    (rd.status = .success → (w.down u rd).ap.ctl = u.ap.ctl ∧
      (compatible u.ap = true →
        w.next u rd = { st := .bufferedWriteFirst, bap := some u.ap, bdata := none, held := none }) ∧
      (compatible u.ap = false → w.next u rd = .reset)) ∧
    (rd.status = .pending ∨ rd.status = .error1 →
      (w.next u rd = { st := .bufferedWriteAsync, bap := w.bap, bdata := some u.dp
                       held := if isXfer u.ap then some u.ap else none }) ∧
      (rd.status = .error1 ∨ compatible u.ap = false → (w.down u rd).ap.ctl = .idle))) ∧
  ∀ (w : WBReg) (u : M2S) (rd : Resp), wbInvariant w = true → w.st = .bufferedWriteAsync →
    (hready rd = false → (w.next u rd).st = .bufferedWriteAsync ∧ (w.next u rd).bap = w.bap ∧
      (w.next u rd).bdata = w.bdata ∧
      (w.next u rd).held = (if isXfer (w.candidate u.ap) then some (w.candidate u.ap) else none)) ∧
    (compatible (w.candidate u.ap) = true → rd.status = .success →
      (w.down u rd).ap.ctl = (w.candidate u.ap).ctl ∧
      w.next u rd = { st := .bufferedWriteFirst, bap := some (w.candidate u.ap), bdata := none, held := none }) ∧
    (isXfer (w.candidate u.ap) = false → hready rd = true → (w.down u rd).ap.ctl = .idle ∧ w.next u rd = .reset) ∧
    (isXfer (w.candidate u.ap) = true → compatible (w.candidate u.ap) = false →
      (w.down u rd).ap.ctl = .idle ∧
      (hready rd = true → (w.next u rd).st = .idleInjectionDone ∧
        (w.next u rd).held = some (w.candidate u.ap) ∧
        ∀ u', ((w.next u rd).down u' idleResp).ap.ctl = (w.candidate u.ap).ctl ∧
          (w.next u rd).up idleResp = { status := .pending, data := .absent } ∧
          ((w.next u rd).next u' idleResp).st = .transparent))

/-- A buffered write's error is lost (R329, R395): a write buffer shows its upstream an error only in Transparent; after
the two error cycles of a buffered write it is back in Transparent, or offers the transfer it held. -/
def Obligations.BufferedWriteErrorIsLost : Prop :=
  ∀ (w : WBReg) (u u' : M2S) (rd rd' : Resp), wbInvariant w = true →
    (w.st ≠ .transparent → (w.up rd).status ≠ .error1 ∧ (w.up rd).status ≠ .error2) ∧
    (w.st = .bufferedWriteFirst ∨ w.st = .bufferedWriteAsync → rd.status = .error1 → rd'.status = .error2 →
      let q := w.next u rd
      let v := q.next u' rd'
      q.st = .bufferedWriteAsync ∧ v.bap = none ∧ v.bdata = none ∧
        (isXfer (q.candidate u'.ap) = false → v.st = .transparent ∧ v.held = none) ∧
        (isXfer (q.candidate u'.ap) = true → v.st = .idleInjectionDone ∧ v.held = some (q.candidate u'.ap)))

/-! ### The instructions -/

/-- IDLE and NOSEL from a block at rest (R153, R154, R112): with no write data the cycle completes, nothing is sampled or
held and every register but the arbiters' stays; with write data, which no data phase owes, it is a WIDTH_MISMATCH on the
master's link (R144). -/
def Obligations.NoTransferCommands : Prop :=
  ∀ (s : State) (ready : Bool) (dp : BusValue) (i : Instr), i = .idle ready dp ∨ i = .nosel ready dp → AtRest s →
    s.input.port < s.cfg.nm →
    (dp = .absent → ∃ t, exec i s = .next t ∧ CycleAdvances s t (cycleInput i s) ∧
      (∀ m < s.cfg.nm, t.master m = .reset ∧ t.last.resp.getD m idleResp = idleResp ∧
        t.last.grants.getD m none = none) ∧
      ∀ k < s.cfg.ns, (t.slave k).downer = none ∧ (t.slave k).lb = (s.slave k).lb ∧ (t.slave k).wb = (s.slave k).wb ∧
        isXfer (t.last.toSlave.getD k idleM2S).ap = false) ∧
    (dp ≠ .absent → exec i s = .fault (.violation .widthMismatch s.cycle (.masterLink s.input.port)))

/-- RD.B to RD.Q from a block at rest (R155 to R160, R246, R438): a read that passes the checks is accepted where its
route is open, and its data phase is at its target; else it is held. A line buffer at the target takes it; a write buffer
passes it. Nothing else changes but the arbiters' decisions. -/
def Obligations.ReadsFromRest : Prop :=
  ∀ (s : State) (c : Cmd) (i : Instr) (sz : SizeCode) (f : Xfer) (x : Target), (i, sz) ∈ readRows c → AtRest s →
    s.input.port < s.cfg.nm → c.dp = .absent → xferOf (readBundle sz c).ap = some f →
    checkAll s.cfg s.input.port f = none → decodeAddr (s.cfg.master s.input.port) c.addr = some x →
    (routeOpen s s.input.port x = true → ∃ t, exec i s = .next t ∧
      AcceptedAt s t (cycleInput i s) s.input.port x (fun k => lbAfterRead s k (committedAP (readBundle sz c)))
        (fun k => (s.slave k).wb)) ∧
    (routeOpen s s.input.port x = false → ∃ t, exec i s = .next t ∧
      HeldAt s t (cycleInput i s) s.input.port (committedAP (readBundle sz c)))

/-- WR.B to WR.Q from a block at rest (R161 to R166): as the reads, but a write that a line buffer samples stops the block
(R293), and a write buffer takes a bufferable one (R328). -/
def Obligations.WritesFromRest : Prop :=
  ∀ (s : State) (c : Cmd) (i : Instr) (sz : SizeCode) (f : Xfer) (x : Target), (i, sz) ∈ writeRows c → AtRest s →
    s.input.port < s.cfg.nm → c.dp = .absent → xferOf (writeBundle sz c).ap = some f →
    checkAll s.cfg s.input.port f = none → decodeAddr (s.cfg.master s.input.port) c.addr = some x →
    (routeOpen s s.input.port x = true →
      (∀ n, x = .slave n → hasLineBuffer (s.cfg.slave n).chain = false) → ∃ t, exec i s = .next t ∧
      AcceptedAt s t (cycleInput i s) s.input.port x (fun k => (s.slave k).lb)
        (fun k => wbAfter s k (committedAP (writeBundle sz c)))) ∧
    (routeOpen s s.input.port x = true →
      ∀ n, x = .slave n → hasLineBuffer (s.cfg.slave n).chain = true →
        exec i s = .fault (.fatal .lbWrite s.cycle (.lineBuffer n) (committedAP (writeBundle sz c)))) ∧
    (routeOpen s s.input.port x = false → ∃ t, exec i s = .next t ∧
      HeldAt s t (cycleInput i s) s.input.port (committedAP (writeBundle sz c)))

/-- R121 and R245: a committed transfer that fails a check stops the block with the fault of the first check it fails, in
the report of R393, unless an earlier master's stage has one; in every state and for every command. And which check that
is, in the transfer's own fields: burst, lock, size, the master's link, alignment, the target, the link below it. -/
def Obligations.FailedCheckStops : Prop :=
  (∀ (s : State) (i : Instr) (b : M2S) (x : Xfer) (f : FatalName), commandBundle i = some b → xferOf b.ap = some x →
    validCfg s.cfg = true → s.input.port < s.cfg.nm → (s.master s.input.port).is.held = none →
    ({ st := s, inp := cycleInput i s } : Cycle).committed s.input.port = true →
    (∀ k < s.input.port, ({ st := s, inp := cycleInput i s } : Cycle).stageFault k = none) →
    checkAll s.cfg s.input.port x = some f →
    exec i s = .fault (.fatal f s.cycle (.inputStage s.input.port) (committedAP b))) ∧
  ∀ (c : Cfg) (m : Nat) (x : Xfer), validCfg c = true → m < c.nm →
    let n := 2 ^ x.size.toNat
    let inside : Range → Prop := fun r => r.base ≤ x.addr.toNat ∧ x.addr.toNat < r.base + r.size
    (x.kind ≠ .single ∨ x.burst ≠ 0 → checkAll c m x = some .burst) ∧
    (x.kind = .single → x.burst = 0 → x.lock = true → checkAll c m x = some .locked) ∧
    (x.kind = .single → x.burst = 0 → x.lock = false →
      (x.size.toNat ≥ 5 ∨ (x.size.toNat = 4 ∧ c.w16 = false) → checkAll c m x = some .sizeReserved) ∧
      (x.size.toNat ≤ 3 ∨ (x.size.toNat = 4 ∧ c.w16 = true) →
        ((c.master m).linkBytes < n → checkAll c m x = some .sizeTooWide) ∧
        (n ≤ (c.master m).linkBytes →
          (x.addr.toNat % n ≠ 0 → checkAll c m x = some .misaligned) ∧
          (x.addr.toNat % n = 0 →
            ((∀ r ∈ (c.master m).ranges, ¬inside r) →
              ((c.master m).unmapped = .noTarget → checkAll c m x = some .noTarget) ∧
              ((c.master m).unmapped = .defaultSlave → checkAll c m x = none)) ∧
            ∀ r ∈ (c.master m).ranges, inside r →
              checkAll c m x = if (c.slave r.slave).linkBytes < n then some .sizeTooWide else none))))

/-- The reserved commands BUSY, SEQ, NONSEQ.BURST, NONSEQ.LOCK and NONSEQ.SIZE when committed (R167 to R171): each stops
the block with its own fault, whatever its other operands; R121's order decides (burst, then lock, then size). -/
def Obligations.ReservedCommandsStop : Prop :=
  ∀ (s : State) (w l : Bool) (sz : SizeCode) (b : BurstCode) (c : Cmd) (i : Instr) (f : FatalName),
    (i, f) ∈ reservedRows w sz b l c → validCfg s.cfg = true → s.input.port < s.cfg.nm →
    (s.master s.input.port).is.held = none →
    ({ st := s, inp := cycleInput i s } : Cycle).committed s.input.port = true →
    (∀ k < s.input.port, ({ st := s, inp := cycleInput i s } : Cycle).stageFault k = none) →
    ∃ ap, exec i s = .fault (.fatal f s.cycle (.inputStage s.input.port) ap) ∧
      ∃ m2s, commandBundle i = some m2s ∧ ap = committedAP m2s

/-- Every one of the 25 commands while its master's data phase waits (R142, R148, R245): with the slave answering PENDING
or ERROR1 the command is not committed; the cycle completes, no check is made, nothing is sampled, and a request is
answered DENY. Every register but the arbiters' stays; the monitors remember the ERROR1. -/
def Obligations.UncommittedCommandsComplete : Prop :=
  ∀ (s : State) (i : Instr) (b : M2S) (n : Nat) (a : AP) (st : Status), commandBundle i = some b →
    OnePhase s s.input.port n a false → st = .pending ∨ st = .error1 → owesData a b.dp = true →
    (∀ k < s.cfg.nm, k ≠ s.input.port → s.input.m2s.getD k idleM2S = idleM2S) →
    (∀ k < s.cfg.ns, s.input.resp.getD k idleResp =
      if k = n then { status := st, data := .absent } else idleResp) →
    (∀ e ∈ s.input.lbEn, e = none) →
    ∃ t, exec i s = .next t ∧ CycleAdvances s t (cycleInput i s) ∧ t.masters = s.masters ∧
      (∀ k < s.cfg.ns, (t.slave k).downer = (s.slave k).downer ∧ (t.slave k).lb = (s.slave k).lb ∧
        (t.slave k).wb = (s.slave k).wb) ∧
      t.masterMon = s.masterMon.set s.input.port { dp := some a, err1 := decide (st = .error1) } ∧
      t.last.resp.getD s.input.port idleResp = { status := st, data := .absent } ∧
      (t.last.grants.getD s.input.port none = some .deny ∨ t.last.grants.getD s.input.port none = none)

/-- The four responses from the slave of the block's one data phase (R172 to R175, R143, R145, R147): PENDING and ERROR1
continue it, SUCCESS with the data owed and ERROR2 after ERROR1 end it; its master sees the response unchanged, every
other master `{SUCCESS, Absent}`, and every register but the arbiters' stays but where the data phase ends. -/
def Obligations.ResponsesToDataPhase : Prop :=
  ∀ (s : State) (m : Nat) (a : AP) (e : Bool) (dp data : BusValue) (i : Instr) (r : Resp),
    OnePhase s m s.input.port a e → OnlyData s m dp → owesData a dp = true →
    (∀ k < s.cfg.ns, k ≠ s.input.port → s.input.resp.getD k idleResp = idleResp) → (∀ x ∈ s.input.lbEn, x = none) →
    (i = .success data ∧ r = { status := .success, data := data } ∧ owesRead a data = true ∧ e = false) ∨
      (i = .pending .absent ∧ r = { status := .pending, data := .absent } ∧ e = false) ∨
      (i = .error1 .absent ∧ r = { status := .error1, data := .absent } ∧ e = false) ∨
      (i = .error2 .absent ∧ r = { status := .error2, data := .absent } ∧ e = true) →
    ∃ t, exec i s = .next t ∧ CycleAdvances s t (cycleInput i s) ∧
      t.masters = (if hready r then List.replicate s.cfg.nm .reset else s.masters) ∧
      (∀ k < s.cfg.ns, (t.slave k).downer = (if hready r then none else (s.slave k).downer) ∧
        (t.slave k).lb = (s.slave k).lb ∧ (t.slave k).wb = (s.slave k).wb) ∧
      t.masterMon = (List.replicate s.cfg.nm LinkMon.reset).set m
        (if hready r then .reset else { dp := some a, err1 := decide (r.status = .error1) }) ∧
      ∀ k < s.cfg.nm, t.last.resp.getD k idleResp = if k = m then r else idleResp

/-- A response out of protocol stops the block (R145, R147, R394, R399): in the block's one data phase, data of the wrong
width is a WIDTH_MISMATCH; a right width with ERROR2 not after ERROR1, or ERROR1 not followed by it, an
ERROR_SEQUENCE; both on the master's link. -/
def Obligations.ResponsesOutOfProtocol : Prop :=
  ∀ (s : State) (m : Nat) (a : AP) (e : Bool) (dp data : BusValue) (i : Instr) (st : Status),
    OnePhase s m s.input.port a e → OnlyData s m dp → owesData a dp = true →
    (∀ k < s.cfg.ns, k ≠ s.input.port → s.input.resp.getD k idleResp = idleResp) → (∀ x ∈ s.input.lbEn, x = none) →
    (i, st) ∈ [(Instr.success data, Status.success), (.pending data, .pending), (.error1 data, .error1),
      (.error2 data, .error2)] →
    (widthOf data ≠ LinkMon.readWidth { dp := some a, err1 := e } st →
      exec i s = .fault (.violation .widthMismatch s.cycle (.masterLink m))) ∧
    (widthOf data = LinkMon.readWidth { dp := some a, err1 := e } st → e ≠ decide (st = .error2) →
      exec i s = .fault (.violation .errorSequence s.cycle (.masterLink m)))

/-- A slave whose data phase is idle owes `{SUCCESS, Absent}` (R149): with it, the cycle of a block at rest completes and
changes nothing but the arbiters; any other response is an IDLE_RESPONSE, raised by the line buffer before the slave if
there is one, else by the output stage (R268, R298). -/
def Obligations.ResponsesToIdleDataPhase : Prop :=
  ∀ (s : State) (data : BusValue) (i : Instr) (st : Status), AtRest s → s.input.port < s.cfg.ns →
    (i, st) ∈ [(Instr.success data, Status.success), (.pending data, .pending), (.error1 data, .error1),
      (.error2 data, .error2)] →
    (st = .success ∧ data = .absent → ∃ t, exec i s = .next t ∧ CycleAdvances s t (cycleInput i s) ∧
      (∀ m < s.cfg.nm, t.master m = .reset) ∧
      ∀ k < s.cfg.ns, (t.slave k).downer = none ∧ (t.slave k).lb = (s.slave k).lb ∧ (t.slave k).wb = (s.slave k).wb) ∧
    (¬(st = .success ∧ data = .absent) →
      exec i s = .fault (.violation .idleResponse s.cycle
        (if hasLineBuffer (s.cfg.slave s.input.port).chain then .lineBuffer s.input.port
          else .outputStage s.input.port)))

/-- GRANT and DENY (R176, R177, R265): in the cycle in which a master of a block at rest requests with a transfer that
passes the checks (and is no write to a line buffer), GRANT occurs exactly when its route is open and its data phase then
starts at its target; else DENY occurs and the transfer is held. The other of the two does not occur: the block drives
the wire (log entry 8). -/
def Obligations.GrantAndDenyFromRest : Prop :=
  ∀ (s : State) (b : M2S) (f : Xfer) (x : Target), AtRest s → s.input.port < s.cfg.nm → b.dp = .absent →
    xferOf b.ap = some f → checkAll s.cfg s.input.port f = none →
    decodeAddr (s.cfg.master s.input.port) f.addr = some x →
    (∀ n, x = .slave n → hasLineBuffer (s.cfg.slave n).chain = true → f.write = false) →
    (routeOpen s s.input.port x = true →
      exec .deny (s.requesting b) = .refused .grantNotDriven ∧
      ∃ t, exec .grant (s.requesting b) = .next t ∧
        AcceptedAt s t (s.input.drive s.input.port b) s.input.port x
          (fun k => lbAfterRead s k (committedAP b)) (fun k => wbAfter s k (committedAP b))) ∧
    (routeOpen s s.input.port x = false →
      exec .grant (s.requesting b) = .refused .grantNotDriven ∧
      ∃ t, exec .deny (s.requesting b) = .next t ∧
        HeldAt s t (s.input.drive s.input.port b) s.input.port (committedAP b))

end
end

