-- ==== Sys2Proof/Laws/State.lean ====
section
/-! SUPPORT. What each field of a state is after each way a state is made: one lemma per field per update, so that no
later proof unfolds a record. -/

namespace Sys2Proof.Machine

/-! `State.resetOf`. -/

@[simp] theorem resetOf_cfg (c : Cfg) (ins : List CycleInput) : (State.resetOf c ins).cfg = c := rfl
@[simp] theorem resetOf_masters (c : Cfg) (ins : List CycleInput) :
    (State.resetOf c ins).masters = List.replicate c.nm .reset := rfl
@[simp] theorem resetOf_slaves (c : Cfg) (ins : List CycleInput) :
    (State.resetOf c ins).slaves = c.slaves.map .reset := rfl
@[simp] theorem resetOf_masterMon (c : Cfg) (ins : List CycleInput) :
    (State.resetOf c ins).masterMon = List.replicate c.nm .reset := rfl
@[simp] theorem resetOf_slaveMon (c : Cfg) (ins : List CycleInput) :
    (State.resetOf c ins).slaveMon = c.slaves.map fun k => List.replicate (k.chain.length + 1) .reset := rfl
@[simp] theorem resetOf_cycle (c : Cfg) (ins : List CycleInput) : (State.resetOf c ins).cycle = 0 := rfl
@[simp] theorem resetOf_inputs (c : Cfg) (ins : List CycleInput) : (State.resetOf c ins).inputs = ins := rfl
@[simp] theorem resetOf_last (c : Cfg) (ins : List CycleInput) : (State.resetOf c ins).last = .none := rfl

/-! `Cycle.edge`. -/

@[simp] theorem edge_cfg (c : Cycle) : c.edge.cfg = c.st.cfg := rfl
@[simp] theorem edge_masters (c : Cycle) : c.edge.masters = c.masterIds.map c.nextMaster := rfl
@[simp] theorem edge_slaves (c : Cycle) : c.edge.slaves = c.slaveIds.map c.nextSlave := rfl
@[simp] theorem edge_masterMon (c : Cycle) :
    c.edge.masterMon = c.masterIds.map fun m => (c.st.masterMonitor m).next (c.masterWire m) := rfl
@[simp] theorem edge_slaveMon (c : Cycle) : c.edge.slaveMon = c.slaveIds.map c.nextMonitors := rfl
@[simp] theorem edge_cycle (c : Cycle) : c.edge.cycle = c.st.cycle + 1 := rfl
@[simp] theorem edge_inputs (c : Cycle) : c.edge.inputs = c.st.inputs.tail := rfl
@[simp] theorem edge_last (c : Cycle) : c.edge.last = c.signals := rfl

/-! `CycleInput.drive`, `CycleInput.answer`. -/

@[simp] theorem drive_reset (inp : CycleInput) (m : Nat) (b : M2S) : (inp.drive m b).reset = inp.reset := rfl
@[simp] theorem drive_port (inp : CycleInput) (m : Nat) (b : M2S) : (inp.drive m b).port = inp.port := rfl
@[simp] theorem drive_bits (inp : CycleInput) (m : Nat) (b : M2S) : (inp.drive m b).bits = inp.bits := rfl
@[simp] theorem drive_m2s (inp : CycleInput) (m : Nat) (b : M2S) :
    (inp.drive m b).m2s = setAt idleM2S inp.m2s m b := rfl
@[simp] theorem drive_resp (inp : CycleInput) (m : Nat) (b : M2S) : (inp.drive m b).resp = inp.resp := rfl
@[simp] theorem drive_lbEn (inp : CycleInput) (m : Nat) (b : M2S) : (inp.drive m b).lbEn = inp.lbEn := rfl

@[simp] theorem answer_reset (inp : CycleInput) (n : Nat) (r : Resp) : (inp.answer n r).reset = inp.reset := rfl
@[simp] theorem answer_port (inp : CycleInput) (n : Nat) (r : Resp) : (inp.answer n r).port = inp.port := rfl
@[simp] theorem answer_bits (inp : CycleInput) (n : Nat) (r : Resp) : (inp.answer n r).bits = inp.bits := rfl
@[simp] theorem answer_m2s (inp : CycleInput) (n : Nat) (r : Resp) : (inp.answer n r).m2s = inp.m2s := rfl
@[simp] theorem answer_resp (inp : CycleInput) (n : Nat) (r : Resp) :
    (inp.answer n r).resp = setAt idleResp inp.resp n r := rfl
@[simp] theorem answer_lbEn (inp : CycleInput) (n : Nat) (r : Resp) : (inp.answer n r).lbEn = inp.lbEn := rfl

/-! `State.withFetchWord`. -/

@[simp] theorem withFetchWord_cfg (s : State) (nbits w : Nat) : (s.withFetchWord nbits w).cfg = s.cfg := rfl
@[simp] theorem withFetchWord_masters (s : State) (nbits w : Nat) : (s.withFetchWord nbits w).masters = s.masters := rfl
@[simp] theorem withFetchWord_slaves (s : State) (nbits w : Nat) : (s.withFetchWord nbits w).slaves = s.slaves := rfl
@[simp] theorem withFetchWord_masterMon (s : State) (nbits w : Nat) :
    (s.withFetchWord nbits w).masterMon = s.masterMon := rfl
@[simp] theorem withFetchWord_slaveMon (s : State) (nbits w : Nat) :
    (s.withFetchWord nbits w).slaveMon = s.slaveMon := rfl
@[simp] theorem withFetchWord_cycle (s : State) (nbits w : Nat) : (s.withFetchWord nbits w).cycle = s.cycle := rfl
@[simp] theorem withFetchWord_input (s : State) (nbits w : Nat) :
    (s.withFetchWord nbits w).input = s.input.withWord nbits w (s.cfg.master 0) := rfl
@[simp] theorem withFetchWord_last (s : State) (nbits w : Nat) : (s.withFetchWord nbits w).last = s.last := rfl

/-! The registers of a side by index. -/

theorem resetOf_master (c : Cfg) (ins : List CycleInput) (m : Nat) : (State.resetOf c ins).master m = .reset := by
  simp only [State.master, resetOf_masters, List.getD_eq_getElem?_getD, List.getElem?_replicate]
  split <;> rfl

theorem resetOf_slave (c : Cfg) (ins : List CycleInput) (n : Nat) :
    (State.resetOf c ins).slave n = .reset (c.slave n) := by
  simp only [State.slave, resetOf_slaves, Cfg.slave, List.getD_eq_getElem?_getD, List.getElem?_map]
  cases c.slaves[n]? <;> rfl

theorem resetOf_masterMonitor (c : Cfg) (ins : List CycleInput) (m : Nat) :
    (State.resetOf c ins).masterMonitor m = .reset := by
  simp only [State.masterMonitor, resetOf_masterMon, List.getD_eq_getElem?_getD, List.getElem?_replicate]
  split <;> rfl

theorem resetOf_slaveMonitor (c : Cfg) (ins : List CycleInput) (n j : Nat) :
    (State.resetOf c ins).slaveMonitor n j = .reset := by
  simp only [State.slaveMonitor, resetOf_slaveMon, List.getD_eq_getElem?_getD, List.getElem?_map]
  cases c.slaves[n]? with
  | none => rfl
  | some k =>
    simp only [Option.map_some, Option.getD_some, List.getElem?_replicate]
    split <;> rfl

theorem edge_master (c : Cycle) (m : Nat) (h : m < c.st.cfg.nm) : c.edge.master m = c.nextMaster m := by
  simp [State.master, Cycle.masterIds, List.getD_eq_getElem?_getD, h]

theorem edge_slave (c : Cycle) (n : Nat) (h : n < c.st.cfg.ns) : c.edge.slave n = c.nextSlave n := by
  simp [State.slave, Cycle.slaveIds, List.getD_eq_getElem?_getD, h]

theorem edge_masterMonitor (c : Cycle) (m : Nat) (h : m < c.st.cfg.nm) :
    c.edge.masterMonitor m = (c.st.masterMonitor m).next (c.masterWire m) := by
  simp [State.masterMonitor, Cycle.masterIds, List.getD_eq_getElem?_getD, h]

theorem edge_slaveMonitor (c : Cycle) (n j : Nat) (h : n < c.st.cfg.ns) :
    c.edge.slaveMonitor n j = (c.nextMonitors n).getD j .reset := by
  simp [State.slaveMonitor, Cycle.slaveIds, List.getD_eq_getElem?_getD, h]

theorem edge_last_resp (c : Cycle) (m : Nat) (h : m < c.st.cfg.nm) : c.edge.last.resp.getD m idleResp = c.resp m := by
  simp [Cycle.signals, Cycle.masterIds, List.getD_eq_getElem?_getD, h]

theorem edge_last_grants (c : Cycle) (m : Nat) (h : m < c.st.cfg.nm) :
    c.edge.last.grants.getD m none = c.grant m := by
  simp [Cycle.signals, Cycle.masterIds, List.getD_eq_getElem?_getD, h]

theorem edge_last_toSlave (c : Cycle) (n : Nat) (h : n < c.st.cfg.ns) :
    c.edge.last.toSlave.getD n idleM2S = c.toSlave n := by
  simp [Cycle.signals, Cycle.slaveIds, List.getD_eq_getElem?_getD, h]

end Sys2Proof.Machine
end

