-- ==== Sys2Proof/Laws/Ops.lean ====
section
/-! SUPPORT. What each shared operation of Sys2Proof/Machine/Ops.lean can do, said once: the provers cite these instead of
unfolding an operation. -/

namespace Sys2Proof.Machine

/-! `setAt`. -/

theorem setAt_getD {α : Type} (d : α) (l : List α) (i j : Nat) (v : α) :
    (setAt d l i v).getD j d = if j = i then v else l.getD j d := by
  induction l generalizing i j with
  | nil =>
    induction i generalizing j with
    | zero => cases j <;> simp [setAt]
    | succ i ih => cases j with
      | zero => simp [setAt]
      | succ j => simpa [setAt] using ih j
  | cons x xs ih =>
    cases i with
    | zero => cases j <;> simp [setAt]
    | succ i => cases j with
      | zero => simp [setAt]
      | succ j => simpa [setAt] using ih i j

/-- The bundle master `k` drives in a cycle whose inputs had master `m`'s replaced. -/
theorem driven_drive (s : State) (inp : CycleInput) (m k : Nat) (b : M2S) :
    ({ st := s, inp := inp.drive m b } : Cycle).driven k = if k = m then b else inp.m2s.getD k idleM2S :=
  setAt_getD idleM2S inp.m2s m k b

/-- The response slave `k` drives in a cycle whose inputs had slave `n`'s replaced. -/
theorem slaveResp_answer (s : State) (inp : CycleInput) (n k : Nat) (r : Resp) :
    ({ st := s, inp := inp.answer n r } : Cycle).slaveResp k = if k = n then r else inp.resp.getD k idleResp :=
  setAt_getD idleResp inp.resp n k r

/-! `runCycle`. -/

/-- A cycle has three outcomes: no model, a stop, or its edge. -/
theorem runCycle_cases (s : State) (inp : CycleInput) :
    (validCfg s.cfg = false ∧ runCycle s inp = .refused .invalidConfig) ∨
    (validCfg s.cfg = true ∧
      ((∃ f, ({ st := s, inp := inp } : Cycle).stop = some f ∧ runCycle s inp = .fault f) ∨
        (({ st := s, inp := inp } : Cycle).stop = none ∧
          runCycle s inp = .next ({ st := s, inp := inp } : Cycle).edge))) := by
  unfold runCycle
  by_cases hv : validCfg s.cfg = true
  · rw [if_pos hv]
    cases hs : ({ st := s, inp := inp } : Cycle).stop with
    | some f => exact .inr ⟨hv, .inl ⟨f, rfl, rfl⟩⟩
    | none => exact .inr ⟨hv, .inr ⟨rfl, rfl⟩⟩
  · rw [if_neg hv]
    exact .inl ⟨by simpa using hv, rfl⟩

/-- A cycle that answers a next state is one of a configuration that has a model, with no stop. -/
theorem runCycle_next (s t : State) (inp : CycleInput) (h : runCycle s inp = .next t) :
    validCfg s.cfg = true ∧ ({ st := s, inp := inp } : Cycle).stop = none ∧
      t = ({ st := s, inp := inp } : Cycle).edge := by
  obtain ⟨_, he⟩ | ⟨hv, ⟨_, _, he⟩ | ⟨hs, he⟩⟩ := runCycle_cases s inp <;> rw [he] at h <;> cases h
  exact ⟨hv, hs, rfl⟩

theorem runCycle_of_stop_eq (s : State) (inp : CycleInput) (hv : validCfg s.cfg = true) :
    runCycle s inp = match ({ st := s, inp := inp } : Cycle).stop with
      | some f => .fault f
      | none => .next ({ st := s, inp := inp } : Cycle).edge := by
  rw [runCycle, if_pos hv]
  rfl

theorem runCycle_of_no_stop (s : State) (inp : CycleInput) (hv : validCfg s.cfg = true)
    (hs : ({ st := s, inp := inp } : Cycle).stop = none) :
    runCycle s inp = .next ({ st := s, inp := inp } : Cycle).edge := by
  rw [runCycle_of_stop_eq s inp hv, hs]

theorem runCycle_of_stop (s : State) (inp : CycleInput) (f : Fault) (hv : validCfg s.cfg = true)
    (hs : ({ st := s, inp := inp } : Cycle).stop = some f) : runCycle s inp = .fault f := by
  rw [runCycle_of_stop_eq s inp hv, hs]

theorem runCycle_refused (s : State) (inp : CycleInput) (r : Refusal) (h : runCycle s inp = .refused r) :
    validCfg s.cfg = false ∧ r = .invalidConfig := by
  obtain ⟨hv, he⟩ | ⟨_, ⟨_, _, he⟩ | ⟨_, he⟩⟩ := runCycle_cases s inp <;> rw [he] at h <;> cases h
  exact ⟨hv, rfl⟩

theorem runCycle_fault (s : State) (inp : CycleInput) (f : Fault) (h : runCycle s inp = .fault f) :
    validCfg s.cfg = true ∧ ({ st := s, inp := inp } : Cycle).stop = some f := by
  obtain ⟨_, he⟩ | ⟨hv, ⟨_, hs, he⟩ | ⟨_, he⟩⟩ := runCycle_cases s inp <;> rw [he] at h <;> cases h
  exact ⟨hv, hs⟩

/-! Ranges (R11). -/

/-- Two ranges are disjoint exactly when no address is in both. -/
theorem disjoint_iff (r q : Range) :
    disjoint r q = true ↔
      ∀ a : Nat, ¬(r.base ≤ a ∧ a < r.base + r.size ∧ q.base ≤ a ∧ a < q.base + q.size) := by
  simp only [disjoint, Bool.or_eq_true, decide_eq_true_eq]
  constructor
  · intro h a; omega
  · intro h
    have := h (max r.base q.base)
    omega

/-! Data that exists (R36). -/

@[simp] theorem carrierExists_absent (w16 : Bool) : carrierExists w16 .absent = true := rfl

/-- A carrier as wide as a size code that exists (R32) exists. -/
theorem carrierExists_of_size (w16 : Bool) (v : BusValue) (sz : SizeCode)
    (hsz : sizeCodeExists w16 sz = true) (hv : widthOf v = some (sizeBytes sz)) : carrierExists w16 v = true := by
  simp only [sizeCodeExists, Bool.or_eq_true, Bool.and_eq_true, decide_eq_true_eq] at hsz
  unfold carrierExists
  rw [hv]
  unfold sizeBytes
  obtain h | ⟨h, rfl⟩ := hsz
  · obtain h | h | h | h : sz.toNat = 0 ∨ sz.toNat = 1 ∨ sz.toNat = 2 ∨ sz.toNat = 3 := by omega
    all_goals simp [h]
  · simp [h]

/-- A monitor finds no WIDTH_MISMATCH exactly when both carriers have the widths of its data phase, and exist. -/
theorem widthMismatch_false_iff (w16 : Bool) (k : LinkMon) (w : Wire) :
    LinkMon.widthMismatch w16 k w = false ↔
      widthOf w.dp = k.writeWidth ∧ widthOf w.resp.data = k.readWidth w.resp.status ∧
        carrierExists w16 w.dp = true ∧ carrierExists w16 w.resp.data = true := by
  simp [LinkMon.widthMismatch, and_assoc]

/-! The three ways a message enters a cycle. -/

theorem driveMaster_eq (s : State) (b : M2S) (h : s.input.port < s.cfg.nm) :
    driveMaster s b = runCycle s (s.input.drive s.input.port b) := by simp [driveMaster, h]

theorem driveSlave_eq (s : State) (r : Resp) (h : s.input.port < s.cfg.ns) :
    driveSlave s r = runCycle s (s.input.answer s.input.port r) := by simp [driveSlave, h]

theorem driveMaster_next (s t : State) (b : M2S) (h : driveMaster s b = .next t) :
    s.input.port < s.cfg.nm ∧ runCycle s (s.input.drive s.input.port b) = .next t := by
  unfold driveMaster at h
  split at h
  · exact ⟨‹_›, h⟩
  · cases h

theorem driveSlave_next (s t : State) (r : Resp) (h : driveSlave s r = .next t) :
    s.input.port < s.cfg.ns ∧ runCycle s (s.input.answer s.input.port r) = .next t := by
  unfold driveSlave at h
  split at h
  · exact ⟨‹_›, h⟩
  · cases h

theorem observeGrant_next (s t : State) (g : Grant) (h : observeGrant s g = .next t) :
    s.input.port < s.cfg.nm ∧ runCycle s s.input = .next t ∧
      ({ st := s, inp := s.input } : Cycle).grant s.input.port = some g := by
  unfold observeGrant at h
  split at h
  · split at h
    · split at h
      · cases h; exact ⟨‹_›, ‹_›, ‹_›⟩
      · cases h
    · cases h
    · cases h
  · cases h

/-! `exec` by format: every command drives its bundle, every response its status, every grant is observed. -/

theorem exec_of_commandBundle (i : Instr) (b : M2S) (s : State) (h : commandBundle i = some b) :
    exec i s = driveMaster s b := by
  cases i <;> simp only [commandBundle, Option.some.injEq, reduceCtorEq] at h <;> subst h <;> rfl

theorem cycleInput_of_commandBundle (i : Instr) (b : M2S) (s : State) (h : commandBundle i = some b) :
    cycleInput i s = s.input.drive s.input.port b := by
  cases i <;> simp_all [commandBundle, cycleInput]

/-- Every instruction but a grant, on a port of its format, runs one cycle with the inputs `cycleInput` gives it. -/
theorem exec_eq_runCycle (i : Instr) (s : State) (hg : i ≠ .grant) (hd : i ≠ .deny) (hp : portExists i s = true) :
    exec i s = runCycle s (cycleInput i s) := by
  cases i <;> first
    | exact absurd rfl hg
    | exact absurd rfl hd
    | exact driveMaster_eq s _ (by simpa [portExists] using hp)
    | exact driveSlave_eq s _ (by simpa [portExists] using hp)

/-- If an instruction answers a next state, that state is the edge of the cycle its inputs give. -/
theorem exec_next (i : Instr) (s t : State) (h : exec i s = .next t) : runCycle s (cycleInput i s) = .next t := by
  cases i <;> first
    | exact (driveMaster_next s t _ h).2
    | exact (driveSlave_next s t _ h).2
    | exact (observeGrant_next s t _ h).2.1

/-- A reset answers the reset state of a configuration that has a model, and is refused for any other. -/
theorem runReset_eq (s : State) :
    runReset s = if validCfg s.cfg then .next (State.resetOf s.cfg s.inputs.tail) else .refused .invalidConfig := rfl

/-- A step that answers a next state is the reset, or one cycle; either way of a configuration that has a model. -/
theorem step_next (s t : State) (h : step s = .next t) :
    (s.input.reset = true ∧ validCfg s.cfg = true ∧ t = State.resetOf s.cfg s.inputs.tail) ∨
      (s.input.reset = false ∧ ∃ inp, runCycle s inp = .next t) := by
  unfold step at h
  split at h
  · rw [runReset_eq] at h
    split at h
    · cases h; exact .inl ⟨‹_›, ‹_›, rfl⟩
    · cases h
  · rename_i hr
    split at h
    · exact .inr ⟨by simpa using hr, _, exec_next _ s t h⟩
    · cases h

end Sys2Proof.Machine
end

