-- ==== Sys2Proof/Laws/Cycle.lean ====
section
/-! SUPPORT. What the signals of a cycle can be, said once: contributions, acceptance, forwarding, grants, the stop and the
registers at the edge. -/

namespace Sys2Proof.Machine

/-! Address phases. -/

@[simp] theorem xferOf_ready (a : AP) (b : Bool) : xferOf { a with ready := b } = xferOf a := rfl
@[simp] theorem isXfer_ready (a : AP) (b : Bool) : isXfer { a with ready := b } = isXfer a := rfl

@[simp] theorem xferOf_asMasterAP (a : AP) : xferOf (asMasterAP a) = xferOf a := by
  cases a with
  | mk ctl r t => cases ctl <;> rfl

theorem xferOf_eq_some (a : AP) (x : Xfer) : xferOf a = some x ↔ a.ctl = .xfer x := by
  cases a with
  | mk ctl r t => cases ctl <;> simp [xferOf]

theorem isXfer_iff (a : AP) : isXfer a = true ↔ ∃ x, a.ctl = .xfer x := by
  cases a with
  | mk ctl r t => cases ctl <;> simp [isXfer, xferOf]

/-- A candidate's ready flag says whether it is committed (R242). -/
@[simp] theorem cand_ready (c : Cycle) (m : Nat) : (c.cand m).ready = c.committed m := by
  unfold Cycle.cand ISReg.candidate
  split <;> rfl

/-- With nothing held, the candidate is the master's own address phase. -/
theorem cand_of_not_held (c : Cycle) (m : Nat) (h : (c.st.master m).is.held = none) :
    c.cand m = { asMasterAP (c.driven m).ap with ready := c.committed m } := by
  simp [Cycle.cand, ISReg.candidate, h]

theorem cand_of_held (c : Cycle) (m : Nat) (a : AP) (h : (c.st.master m).is.held = some a) :
    c.cand m = { a with ready := c.committed m } := by
  simp [Cycle.cand, ISReg.candidate, h]

/-! Contributions (R183). -/

/-- A contribution is a transfer exactly at the target of the candidate. -/
theorem isXfer_contrib (c : Cycle) (m : Nat) (x : Target) :
    isXfer (c.contrib m x) = true ↔ c.target m = some x := by
  unfold Cycle.contrib Cycle.target contribution targetOf xferOf
  generalize c.cand m = a
  cases a with
  | mk ctl r t =>
    cases ctl with
    | idle => simp [isXfer, xferOf]
    | noSel => simp [isXfer, xferOf]
    | xfer y =>
      simp only
      split
      · simpa [isXfer, xferOf] using ‹_›
      · simpa [isXfer, xferOf] using ‹_›

/-- There the contribution is the candidate itself. -/
theorem contrib_eq_cand (c : Cycle) (m : Nat) (x : Target) (h : c.target m = some x) : c.contrib m x = c.cand m := by
  unfold Cycle.contrib Cycle.target contribution at *
  generalize c.cand m = a at *
  cases a with
  | mk ctl r t =>
    cases ctl with
    | idle => rfl
    | noSel => rfl
    | xfer y => simp [h]

theorem isXfer_cand_of_target (c : Cycle) (m : Nat) (x : Target) (h : c.target m = some x) :
    isXfer (c.cand m) = true := by
  rw [← contrib_eq_cand c m x h]
  exact (isXfer_contrib c m x).2 h

/-! The output stage (R263 to R265). -/

/-- The owner's transfer, if its contribution is one and it is committed. -/
theorem ownerTransfer_eq_some (c : Cycle) (n o : Nat) (a : AP) :
    ownerTransfer (c.own n) (fun m => c.contrib m (.slave n)) = some (o, a) ↔
      c.own n = some o ∧ c.target o = some (.slave n) ∧ c.committed o = true ∧ a = c.cand o := by
  unfold ownerTransfer
  cases ho : c.own n with
  | none => simp
  | some p =>
    simp only
    by_cases ht : c.target p = some (.slave n)
    · have hx := (isXfer_contrib c p (.slave n)).2 ht
      have hc := contrib_eq_cand c p (.slave n) ht
      have hxc := isXfer_cand_of_target c p _ ht
      rw [hc, hxc, cand_ready]
      by_cases hcm : c.committed p = true
      · simp only [hcm, Bool.and_self, if_true, Option.some.injEq, Prod.mk.injEq]
        constructor
        · rintro ⟨rfl, rfl⟩; exact ⟨rfl, ht, hcm, rfl⟩
        · rintro ⟨rfl, _, _, rfl⟩; exact ⟨rfl, rfl⟩
      · simp only [hcm, Bool.and_false, Bool.false_eq_true, if_false, reduceCtorEq, false_iff, not_and]
        rintro h1 _ h3
        cases h1; exact absurd h3 hcm
    · have hx : isXfer (c.contrib p (.slave n)) = false := by
        rw [Bool.eq_false_iff]; exact fun h => ht ((isXfer_contrib c p _).1 h)
      simp only [hx, Bool.false_and, Bool.false_eq_true, if_false, reduceCtorEq, false_iff, not_and]
      rintro h1 h2
      cases h1; exact absurd h2 ht

/-- Who is accepted (R264). -/
theorem acc_eq_some (c : Cycle) (n o : Nat) :
    c.acc n = some o ↔
      c.own n = some o ∧ c.target o = some (.slave n) ∧ c.committed o = true ∧ c.rdy n = true := by
  unfold Cycle.acc accepted
  cases h : ownerTransfer (c.own n) (fun m => c.contrib m (.slave n)) with
  | none =>
    simp only [reduceCtorEq, false_iff, not_and]
    intro h1 h2 h3
    rw [(ownerTransfer_eq_some c n o (c.cand o)).2 ⟨h1, h2, h3, rfl⟩] at h
    cases h
  | some p =>
    obtain ⟨p, a⟩ := p
    have hp := (ownerTransfer_eq_some c n p a).1 h
    simp only
    split
    · simp only [Option.some.injEq]
      constructor
      · rintro rfl; exact ⟨hp.1, hp.2.1, hp.2.2.1, ‹_›⟩
      · rintro ⟨h1, _⟩; rw [hp.1] at h1; exact Option.some.inj h1
    · simp only [reduceCtorEq, false_iff, not_and]
      intro _ _ _ h4; exact ‹¬_› h4

/-- What the stage forwards (R263): the owner's committed transfer with the link's own ready flag, or Idle. -/
theorem stageAP_cases (c : Cycle) (n : Nat) :
    (∃ o, c.own n = some o ∧ c.target o = some (.slave n) ∧ c.committed o = true ∧
      c.stageAP n = { ctl := (c.cand o).ctl, ready := c.rdy n, tag := (c.cand o).tag }) ∨
    c.stageAP n = { ctl := .idle, ready := c.rdy n, tag := none } := by
  unfold Cycle.stageAP forwardedAP
  cases h : ownerTransfer (c.own n) (fun m => c.contrib m (.slave n)) with
  | none => exact .inr rfl
  | some p =>
    obtain ⟨p, a⟩ := p
    obtain ⟨h1, h2, h3, rfl⟩ := (ownerTransfer_eq_some c n p a).1 h
    exact .inl ⟨p, h1, h2, h3, rfl⟩

/-- GRANT from a slave's output stage is acceptance (R265). -/
theorem portGrant_slave (c : Cycle) (m n : Nat) :
    c.portGrant m (.slave n) =
      if c.target m = some (.slave n) then (if c.acc n = some m then some .grant else some .deny) else none := by
  unfold Cycle.portGrant stageGrant
  simp only
  by_cases ht : c.target m = some (.slave n)
  · rw [if_pos ((isXfer_contrib c m _).2 ht), if_pos ht]
  · rw [if_neg (fun h => ht ((isXfer_contrib c m _).1 h)), if_neg ht]

/-- The default slave's grant (R186). -/
theorem portGrant_dflt (c : Cycle) (m : Nat) :
    c.portGrant m .dflt =
      if c.target m = some .dflt then
        (if c.committed m && hready (c.st.master m).dflt.response then some .grant else some .deny)
      else none := by
  unfold Cycle.portGrant DefPhase.grant
  simp only
  by_cases ht : c.target m = some .dflt
  · rw [if_pos ((isXfer_contrib c m _).2 ht), if_pos ht]
  · rw [if_neg (fun h => ht ((isXfer_contrib c m _).1 h)), if_neg ht]

/-! The registers at the edge. -/

theorem adaptersNext_arb (old : SlaveRegs) (en : Option Bool) (ps : List (Adapter × M2S × Resp)) (q : SlaveRegs) :
    (adaptersNext old en ps q).arb = q.arb := by
  induction ps generalizing q with
  | nil => rfl
  | cons p ps ih => obtain ⟨a, u, rd⟩ := p; cases a <;> exact ih _

theorem adaptersNext_downer (old : SlaveRegs) (en : Option Bool) (ps : List (Adapter × M2S × Resp)) (q : SlaveRegs) :
    (adaptersNext old en ps q).downer = q.downer := by
  induction ps generalizing q with
  | nil => rfl
  | cons p ps ih => obtain ⟨a, u, rd⟩ := p; cases a <;> exact ih _

/-- Adapters a chain lacks keep their registers. -/
theorem adaptersNext_nil (old : SlaveRegs) (en : Option Bool) (q : SlaveRegs) : adaptersNext old en [] q = q := rfl

@[simp] theorem nextSlave_arb (c : Cycle) (n : Nat) :
    (c.nextSlave n).arb = (c.st.slave n).arb.next (c.st.cfg.slave n).arb (c.arbIn n) := by
  simp only [Cycle.nextSlave]; exact adaptersNext_arb _ _ _ _

@[simp] theorem nextSlave_downer (c : Cycle) (n : Nat) :
    (c.nextSlave n).downer = downerNext (c.st.slave n).downer (c.acc n) (c.rdy n) := by
  simp only [Cycle.nextSlave]; exact adaptersNext_downer _ _ _ _

@[simp] theorem nextMaster_is (c : Cycle) (m : Nat) :
    (c.nextMaster m).is = (c.st.master m).is.next (c.committed m) (c.cand m) (c.target m) (c.grant m) := rfl

@[simp] theorem nextMaster_dflt (c : Cycle) (m : Nat) :
    (c.nextMaster m).dflt = (c.st.master m).dflt.next (c.portGrant m .dflt) := rfl

@[simp] theorem nextMaster_ddowner (c : Cycle) (m : Nat) :
    (c.nextMaster m).ddowner =
      downerNext (c.st.master m).ddowner (c.dfltAcc m) (hready (c.st.master m).dflt.response) := rfl

/-- The default slave's stage accepts its master exactly when the default slave grants it (R186). -/
theorem dfltAcc_eq (c : Cycle) (m : Nat) :
    c.dfltAcc m =
      if c.target m = some .dflt ∧ c.committed m = true ∧ hready (c.st.master m).dflt.response = true then some m
      else none := by
  unfold Cycle.dfltAcc
  rw [portGrant_dflt]
  by_cases ht : c.target m = some .dflt
  · by_cases hc : c.committed m = true <;> by_cases hr : hready (c.st.master m).dflt.response = true <;> simp [ht, hc, hr]
  · simp [ht]

/-- A default slave's response reaches its master while the stage inside its path has that master's data phase. -/
theorem portResp_dflt (c : Cycle) (m : Nat) :
    c.portResp m .dflt = if (c.st.master m).ddowner = some m then (c.st.master m).dflt.response else idleResp := rfl

/-! The stop (R399). -/

/-- A cycle with no stop raised nothing anywhere. -/
theorem stop_none (c : Cycle) (h : c.stop = none) :
    (∀ m < c.st.cfg.nm, c.stageFault m = none ∧ c.missingGrant m = none ∧
      c.masterMonViolation .widthMismatch (LinkMon.widthMismatch c.st.cfg.w16) m = none ∧
      c.masterMonViolation .errorSequence LinkMon.errorSequence m = none) ∧
    ∀ n < c.st.cfg.ns, c.lineFault n = none ∧ c.strayResponse n = none ∧ c.foreignMaster n = none ∧
      c.adapterViolation .idleResponse adapterIdleResponse n = none ∧
      c.adapterViolation .widthMismatch adapterWidthMismatch n = none ∧
      c.adapterViolation .errorSequence adapterErrorSequence n = none ∧
      c.chainMonViolation .widthMismatch (LinkMon.widthMismatch c.st.cfg.w16) n = none ∧
      c.chainMonViolation .errorSequence LinkMon.errorSequence n = none := by
  simp only [Cycle.stop, Option.orElse_eq_orElse, Option.orElse_eq_or, Option.or_eq_none_iff, List.findSome?_eq_none_iff,
    Cycle.masterIds, Cycle.slaveIds, List.mem_range] at h
  obtain ⟨h1, h2, h3, h4, h5, h6, h7, h8, h9, h10, h11, h12⟩ := h
  exact ⟨fun m hm => ⟨h1 m hm, h5 m hm, h7 m hm, h11 m hm⟩,
    fun n hn => ⟨h2 n hn, h3 n hn, h9 n hn, h4 n hn, h6 n hn, h10 n hn, h8 n hn, h12 n hn⟩⟩

theorem violationIf_none (c : Cycle) (b : Bool) (v : ViolationName) (p : Place) :
    c.violationIf b v p = none ↔ b = false := by
  unfold Cycle.violationIf
  cases b <;> simp

end Sys2Proof.Machine
end

