-- ==== Sys2Proof/Laws/Decode.lean ====
section
/-! SUPPORT. The fields of an encoded control word and payload (R111, R116, R119). -/

namespace Sys2Proof

section fields

variable (t : BitVec 2) (w : Bool) (sz : SizeCode) (b : BurstCode) (l : Bool) (c : Cmd)

@[simp] theorem encodeCW_sel : (encodeCW t w sz b l c).getLsbD 0 = true := by
  simp only [encodeCW, protBits, BitVec.getLsbD_append]; simp

@[simp] theorem encodeCW_trans : cwTrans (encodeCW t w sz b l c) = t := by
  ext i hi
  simp only [cwTrans, encodeCW, protBits, BitVec.getElem_extractLsb', BitVec.getLsbD_append]
  have : i = 0 ∨ i = 1 := by omega
  rcases this with rfl | rfl <;> simp

@[simp] theorem encodeCW_write : (encodeCW t w sz b l c).getLsbD 3 = w := by
  simp only [encodeCW, protBits, BitVec.getLsbD_append]; simp

@[simp] theorem encodeCW_size : cwSize (encodeCW t w sz b l c) = sz := by
  ext i hi
  simp only [cwSize, encodeCW, protBits, BitVec.getElem_extractLsb', BitVec.getLsbD_append]
  have : i = 0 ∨ i = 1 ∨ i = 2 := by omega
  rcases this with rfl | rfl | rfl <;> simp

@[simp] theorem encodeCW_burst : cwBurst (encodeCW t w sz b l c) = b := by
  ext i hi
  simp only [cwBurst, encodeCW, protBits, BitVec.getElem_extractLsb', BitVec.getLsbD_append]
  have : i = 0 ∨ i = 1 ∨ i = 2 := by omega
  rcases this with rfl | rfl | rfl <;> simp

@[simp] theorem encodeCW_prot : cwProt (encodeCW t w sz b l c) = c.prot := by
  cases c with
  | mk r p a d => cases p; simp only [cwProt, encodeCW, protBits, BitVec.getLsbD_append]; simp

@[simp] theorem encodeCW_lock : (encodeCW t w sz b l c).getLsbD 14 = l := by
  simp only [encodeCW, protBits, BitVec.getLsbD_append]; simp

@[simp] theorem encodeCW_ready : (encodeCW t w sz b l c).getLsbD 15 = c.ready := by
  simp only [encodeCW, protBits, BitVec.getLsbD_append]; simp

end fields

/-- Byte 0 of a payload of bytes is the first, and the others are those of the rest shifted up (R72, R119). -/
theorem bytesPayload_cons (b : Byte) (bs : List Byte) (i : Nat) :
    (bytesPayload (b :: bs)).getLsbD i =
      ((decide (i < 128) && !decide (i < 8) && (bytesPayload bs).getLsbD (i - 8)) || (decide (i < 128) && b.getLsbD i)) := by
  simp [bytesPayload, BitVec.getLsbD_or, BitVec.getLsbD_shiftLeft, BitVec.getLsbD_setWidth]

/-- A width tag that is driven gives a carrier of its width (R119). -/
theorem payloadBytes_length (n : Nat) (d : BitVec 128) : (payloadBytes n d).length = n := by simp [payloadBytes]

end Sys2Proof
end

