-- ==== Sys2Proof/Tests/Slice0.lean ====
section
/-! SUPPORT. Small tests, each of one decoding, one check, one component step or one cycle; expected values are from the
encodings, tables and worked examples of spec/, or by hand from its rules. -/

namespace Sys2Proof.Tests

open Sys2Proof.Machine

/-! ### Decoding: one word per row, written from R111, R117, R118 and the patterns of R123. -/

/-- `absent letters mean cacheable = 0, bufferable = 0, data = 1, priv = 1` (R126): HPROT = 0011, `CW[13:10]`. -/
def plain : Prot := { data := true, priv := true, bufferable := false, cacheable := false }

/-- The operands of a command with ADDR 0, no data, READY 0. -/
def cmd0 : Cmd := { ready := false, prot := plain, addr := 0, dp := .absent }

theorem test_decode_nosel : decodeTableWord 16 0x0000 = some (.nosel false .absent) := by decide
theorem test_decode_nosel_ignores : decodeTableWord 16 0x7FFE = some (.nosel false .absent) := by decide
theorem test_decode_idle : decodeTableWord 16 0x0001 = some (.idle false .absent) := by decide
theorem test_decode_idle_ignores : decodeTableWord 16 0xFFF9 = some (.idle true .absent) := by decide
theorem test_decode_busy : decodeTableWord 16 0x0C23 = some (.busy false 2 0 false cmd0) := by decide
theorem test_decode_seq : decodeTableWord 16 0x4D2F = some (.seq true 2 2 true cmd0) := by decide
theorem test_decode_burst1 : decodeTableWord 16 0x0CA5 = some (.burst1 false 2 false cmd0) := by decide
theorem test_decode_burst2 : decodeTableWord 16 0x0D25 = some (.burst2 false 2 false cmd0) := by decide
theorem test_decode_burst3 : decodeTableWord 16 0x0DA5 = some (.burst3 false 2 false cmd0) := by decide
theorem test_decode_burst4 : decodeTableWord 16 0x0E25 = some (.burst4 false 2 false cmd0) := by decide
theorem test_decode_burst5 : decodeTableWord 16 0x0EA5 = some (.burst5 false 2 false cmd0) := by decide
theorem test_decode_burst6 : decodeTableWord 16 0x0F25 = some (.burst6 false 2 false cmd0) := by decide
/-- Burst comes before lock and size (R121): HMASTLOCK = 1 and HSIZE = 7 stay operands. -/
theorem test_decode_burst7 : decodeTableWord 16 0x4FFD = some (.burst7 true 7 true cmd0) := by decide
theorem test_decode_lock : decodeTableWord 16 0x4C25 = some (.lock false 2 cmd0) := by decide
/-- Lock comes before the reserved size (R121). -/
theorem test_decode_lock_size : decodeTableWord 16 0x4C55 = some (.lock false 5 cmd0) := by decide
theorem test_decode_size5 : decodeTableWord 16 0x0C55 = some (.size5 false cmd0) := by decide
theorem test_decode_size6 : decodeTableWord 16 0x0C6D = some (.size6 true cmd0) := by decide
theorem test_decode_size7 : decodeTableWord 16 0x0C75 = some (.size7 false cmd0) := by decide
theorem test_decode_rdB : decodeTableWord 16 0x0C05 = some (.rdB cmd0) := by decide
theorem test_decode_rdH : decodeTableWord 16 0x0C15 = some (.rdH cmd0) := by decide
theorem test_decode_rdW : decodeTableWord 16 0x0C25 = some (.rdW cmd0) := by decide
theorem test_decode_rdD : decodeTableWord 16 0x0C35 = some (.rdD cmd0) := by decide
theorem test_decode_rdQ : decodeTableWord 16 0x0C45 = some (.rdQ cmd0) := by decide
theorem test_decode_wrB : decodeTableWord 16 0x0C0D = some (.wrB cmd0) := by decide
theorem test_decode_wrH : decodeTableWord 16 0x0C1D = some (.wrH cmd0) := by decide
theorem test_decode_wrW : decodeTableWord 16 0x8C2D = some (.wrW { cmd0 with ready := true }) := by decide
theorem test_decode_wrD : decodeTableWord 16 0x0C3D = some (.wrD cmd0) := by decide
theorem test_decode_wrQ : decodeTableWord 16 0x0C4D = some (.wrQ cmd0) := by decide
theorem test_decode_pending : decodeTableWord 8 0x00 = some (.pending .absent) := by decide
theorem test_decode_success : decodeTableWord 8 0x01 = some (.success .absent) := by decide
theorem test_decode_error1 : decodeTableWord 8 0x02 = some (.error1 .absent) := by decide
theorem test_decode_error2 : decodeTableWord 8 0x03 = some (.error2 .absent) := by decide
theorem test_decode_grants : decodeTableWord 1 1 = some .grant ∧ decodeTableWord 1 0 = some .deny := by decide

/-- `WR.W 0x1000, 0xDEADBEEF B` is `CW 0x1C2D` with `WT 011`, `D 0xDEADBEEF` (R127), here in one bundle. -/
theorem test_decode_address_and_data :
    decode (.m2s { cw := 0x1C2D, addr := 0x1000, wt := 3, d := 0xDEADBEEF }) =
      .ok (.wrW { ready := false, prot := { plain with bufferable := true }, addr := 0x1000
                  dp := .bytes [0xEF, 0xBE, 0xAD, 0xDE] }) := by decide

theorem test_decode_refuses_width_tag_6 :
    decode (.s2m { rw := 1, wt := 6, d := 0 }) = .error (.reservedWidthTag 6) := by decide
theorem test_decode_refuses_width_tag_7 :
    decode (.m2s { cw := 1, addr := 0, wt := 7, d := 0 }) = .error (.reservedWidthTag 7) := by decide

theorem test_encode_write :
    encode (.wrW { ready := false, prot := { plain with bufferable := true }, addr := 0x1000
                   dp := .bytes [0xEF, 0xBE, 0xAD, 0xDE] }) =
      .m2s { cw := 0x1C2D, addr := 0x1000, wt := 3, d := 0xDEADBEEF } := by decide

/-! ### Well-formedness: the one check of Sys2Proof/WellFormed.lean refuses a width R36 does not have. -/

theorem test_wf_refuses_width_0 : (Instr.success (.bytes [])).wf = false := by decide
theorem test_wf_refuses_width_3 : (Instr.rdB { cmd0 with dp := .bytes [1, 2, 3] }).wf = false := by decide
theorem test_wf_accepts_width_8 : (Instr.idle true (.bytes [1, 2, 3, 4, 5, 6, 7, 8])).wf = true := by decide

/-! ### The checks of R121 and R245, an ill-formed transfer for each, and configurations that R11 refuses. -/

/-- `RD.W` at an address. -/
def rdWAt (a : Addr) : Xfer :=
  { kind := .single, write := false, size := 2, burst := 0, prot := plain, lock := false, addr := a }

theorem test_check_passes : checkXfer false 4 (rdWAt 0x2000) = none := by decide
theorem test_check_kind : checkXfer false 4 { rdWAt 0 with kind := .busy } = some .burst := by decide
theorem test_check_burst : checkXfer false 4 { rdWAt 0 with burst := 3, lock := true } = some .burst := by decide
theorem test_check_lock : checkXfer false 4 { rdWAt 1 with lock := true } = some .locked := by decide
theorem test_check_size : checkXfer true 16 { rdWAt 0 with size := 5 } = some .sizeReserved := by decide
theorem test_check_size_16 : checkXfer false 16 { rdWAt 0 with size := 4 } = some .sizeReserved := by decide
theorem test_check_fits : checkXfer false 4 { rdWAt 1 with size := 3 } = some .sizeTooWide := by decide
theorem test_check_aligned : checkXfer false 4 (rdWAt 0x1002) = some .misaligned := by decide

/-- A check on the target: the link below it is narrower than the transfer (R245, check 8). -/
theorem test_check_below : checkTarget (fun _ => 2) (some (.slave 0)) (rdWAt 0) = some .sizeTooWide := by decide
theorem test_check_no_target : checkTarget (fun _ => 4) none (rdWAt 0) = some .noTarget := by decide

theorem test_cfg_example : validCfg exampleCfg = true := by decide
theorem test_cfg_refuses_granule :
    validCfg { exampleCfg with masters :=
      [{ ranges := [{ base := 4, size := 8, slave := 0 }], unmapped := .noTarget, linkBytes := 4 }] } = false := by decide
theorem test_cfg_refuses_overlap :
    validCfg { exampleCfg with masters :=
      [{ ranges := [{ base := 0, size := 16, slave := 0 }, { base := 8, size := 8, slave := 1 }]
         unmapped := .noTarget, linkBytes := 4 }] } = false := by decide
/-- An empty range inside another overlaps nothing (log entry 18). -/
theorem test_cfg_empty_range :
    disjointRanges [{ base := 0, size := 64, slave := 0 }, { base := 16, size := 0, slave := 1 }] = true := by decide
theorem test_cfg_refuses_two_line_buffers : validChain true 4 [.lb 8 true, .lb 8 true] = false := by decide
theorem test_cfg_refuses_narrow_line : validChain true 4 [.lb 2 true] = false := by decide

/-! ### The decoder's table of R187 (slaves FLASH = 0, SRAM = 1, PERIPH = 2). -/

theorem test_decode_map :
    [0x00000000, 0x0001FFFC, 0x00020000, 0x20004FFC, 0x20005000, 0x4FFFFFFC, 0xFFFFFFFC].map
        (decodeAddr (exampleCfg.master 1)) =
      [some (.slave 0), some (.slave 0), some .dflt, some (.slave 1), some .dflt, some (.slave 2), some .dflt] := by
  decide

/-! ### Small configurations and states. -/

/-- One master with an 8-byte link and a default slave; one slave at `0 .. 0xFFFF`. -/
def cfg1 (arb : ArbKind) (chain : List Adapter) : Cfg :=
  { w16 := false
    masters := [{ ranges := [{ base := 0, size := 0x10000, slave := 0 }], unmapped := .defaultSlave, linkBytes := 8 }]
    slaves := [{ arb := arb, chain := chain, linkBytes := 8 }] }

/-- Two masters of one slave, which has no adapter. -/
def cfg2 (arb : ArbKind) : Cfg :=
  let k : MasterCfg :=
    { ranges := [{ base := 0, size := 0x10000, slave := 0 }], unmapped := .noTarget, linkBytes := 4 }
  { w16 := false, masters := [k, k], slaves := [{ arb := arb, chain := [], linkBytes := 4 }] }

/-- As `cfg1`, with 16-byte transfers and no adapter. -/
def cfg16 : Cfg :=
  { w16 := true
    masters := [{ ranges := [{ base := 0, size := 0x10000, slave := 0 }], unmapped := .noTarget, linkBytes := 16 }]
    slaves := [{ arb := .singleMaster 0, chain := [], linkBytes := 16 }] }

/-- A block of a configuration at rest after reset, with port `p` in focus. -/
def rest (c : Cfg) (p : Nat) : State := State.resetOf c [{ CycleInput.rest with port := p }]

/-- A block of `cfg1 arb []` whose one data phase is `a`, its slave link's last response an ERROR1 if `e`, with the
given inputs. -/
def phase (a : AP) (e : Bool) (inp : CycleInput) : State :=
  let s := State.resetOf (cfg1 (.singleMaster 0) []) [inp]
  { s with
    masters := [{ is := { held := none, dpt := some (.slave 0) }, dflt := .idle, ddowner := none }]
    slaves := [{ SlaveRegs.reset { arb := .singleMaster 0, chain := [], linkBytes := 8 } with downer := some 0 }]
    masterMon := [{ dp := some a, err1 := e }]
    slaveMon := [[{ dp := some a, err1 := e }]] }

/-- The word read and the word write at an address, as committed address phases. -/
def rdW (a : Addr) : AP := committedAP (readBundle 2 { cmd0 with addr := a })
def wrW (a : Addr) : AP := committedAP (writeBundle 2 { cmd0 with addr := a })
def wrWB (a : Addr) : AP :=
  committedAP (writeBundle 2 { cmd0 with addr := a, prot := { plain with bufferable := true } })

/-- Four bytes of data. -/
def word : BusValue := .bytes [0x44, 0x33, 0x22, 0x11]

/-- A part of the next state, if there is one. -/
def nextOf {α : Type} (f : State → α) : Host.Outcome State Fault Refusal → Option α
  | .next t => some (f t)
  | .fault _ => none
  | .refused _ => none

/-- The fault, if there is one. -/
def faultOf : Host.Outcome State Fault Refusal → Option Fault
  | .next _ => none
  | .fault f => some f
  | .refused _ => none

/-- The refusal, if there is one. -/
def refusalOf : Host.Outcome State Fault Refusal → Option Refusal
  | .next _ => none
  | .fault _ => none
  | .refused r => some r

/-- Master 0's input stage and the owners of slave 0. -/
def route (t : State) : ISReg × Option Nat × Option Nat := ((t.master 0).is, (t.slave 0).arb.owner, (t.slave 0).downer)

/-! ### One cycle of the block. -/

/-- L2-ARB-1 (R202): a single master's read is accepted in the cycle it is presented. -/
theorem test_single_master_read :
    nextOf route (exec (.rdW cmd0) (rest (cfg1 (.singleMaster 0) []) 0)) =
      some ({ held := none, dpt := some (.slave 0) }, some 0, some 0) := by decide

/-- R432, R250: a registered arbiter has no owner in cycle 0, so the read is denied and held; it owns the next cycle. -/
theorem test_round_robin_first_read :
    nextOf route (exec (.rdW cmd0) (rest (cfg1 .roundRobin []) 0)) =
      some ({ held := some (rdW 0), dpt := none }, some 0, none) := by decide

/-- R250: the held read is granted in the next cycle, whatever its master drives then. -/
theorem test_held_read_is_granted :
    (match exec (.rdW cmd0) (rest (cfg1 .roundRobin []) 0) with
      | .next t => nextOf route (exec (.idle true .absent) t)
      | .fault _ => none
      | .refused _ => none) = some ({ held := none, dpt := some (.slave 0) }, some 0, some 0) := by decide

/-- R186: an unmapped read is granted by the default slave, whose first error cycle is the next. -/
theorem test_unmapped_read :
    nextOf (fun t => ((t.master 0).is.dpt, (t.master 0).dflt, t.last.grants))
        (exec (.rdW { cmd0 with addr := 0x20000 }) (rest (cfg1 (.singleMaster 0) []) 0)) =
      some (some .dflt, .err1, [some .grant]) := by decide

/-- R182: the same with no default slave stops the block. -/
theorem test_no_target :
    faultOf (exec (.rdW { cmd0 with addr := 0x20000 }) (rest (cfg2 .roundRobin) 1)) =
      some (.fatal .noTarget 0 (.inputStage 1) (rdW 0x20000)) := by decide

/-- R293: a write into a line buffer stops the block. -/
theorem test_line_buffer_write :
    faultOf (exec (.wrW cmd0) (rest (cfg1 (.singleMaster 0) [.lb 8 true]) 0)) =
      some (.fatal .lbWrite 0 (.lineBuffer 0) (wrW 0)) := by decide

/-- R328: a bufferable write is taken by a write buffer; one that is not passes through. -/
theorem test_write_buffer_takes :
    nextOf (fun t => (t.slave 0).wb.st)
        (exec (.wrW { cmd0 with prot := { plain with bufferable := true } }) (rest (cfg1 (.singleMaster 0) [.wb]) 0)) =
      some .bufferedWriteFirst := by decide
theorem test_write_buffer_passes :
    nextOf (fun t => (t.slave 0).wb.st) (exec (.wrW cmd0) (rest (cfg1 (.singleMaster 0) [.wb]) 0)) =
      some .transparent := by decide

/-- R160, R166: the 16-byte transfers run where `W16` and the links allow, and are reserved elsewhere. -/
theorem test_quad_read : nextOf route (exec (.rdQ cmd0) (rest cfg16 0)) =
    some ({ held := none, dpt := some (.slave 0) }, some 0, some 0) := by decide
theorem test_quad_write : nextOf route (exec (.wrQ cmd0) (rest cfg16 0)) =
    some ({ held := none, dpt := some (.slave 0) }, some 0, some 0) := by decide
theorem test_quad_reserved :
    faultOf (exec (.rdQ cmd0) (rest (cfg1 (.singleMaster 0) []) 0)) =
      some (.fatal .sizeReserved 0 (.inputStage 0) (committedAP (readBundle 4 cmd0))) := by decide

/-- R167 to R171: every reserved command, committed, stops the block. -/
theorem test_reserved_commands :
    (reservedRows true 2 4 true cmd0).map (fun r => (faultOf (exec r.1 (rest (cfg1 (.singleMaster 0) []) 0))).map
        fun f => match f with | .fatal n _ _ _ => some n | .violation _ _ _ => none) =
      (reservedRows true 2 4 true cmd0).map fun r => some (some r.2) := by decide

/-- R175, R147: ERROR2 not after ERROR1 is a violation; after ERROR1 it ends the data phase. -/
theorem test_error2_alone :
    faultOf (exec (.error2 .absent) (phase (rdW 0) false CycleInput.rest)) =
      some (.violation .errorSequence 0 (.masterLink 0)) := by decide
theorem test_error2_ends :
    nextOf (fun t => ((t.master 0).is.dpt, (t.slave 0).downer, t.last.resp))
        (exec (.error2 .absent) (phase (rdW 0) true CycleInput.rest)) =
      some (none, none, [{ status := .error2, data := .absent }]) := by decide

/-- R172, R145: SUCCESS ends a read with its data; too little of it is a violation. -/
theorem test_success_ends :
    nextOf (fun t => ((t.master 0).is.dpt, (t.slave 0).downer, t.last.resp))
        (exec (.success word) (phase (rdW 0) false CycleInput.rest)) =
      some (none, none, [{ status := .success, data := word }]) := by decide
theorem test_success_too_narrow :
    faultOf (exec (.success (.bytes [1])) (phase (rdW 0) false CycleInput.rest)) =
      some (.violation .widthMismatch 0 (.masterLink 0)) := by decide
/-- R394, I18, I19: 16 bytes without `W16`, and 3 bytes, are the width of no transfer. -/
theorem test_width_of_no_transfer :
    faultOf (exec (.idle true (.bytes (List.replicate 16 0))) (rest exampleCfg 0)) =
        some (.violation .widthMismatch 0 (.masterLink 0)) ∧
      faultOf (exec (.success (.bytes [1, 2, 3])) (rest cfg16 0)) =
        some (.violation .idleResponse 0 (.outputStage 0)) := by decide

/-- R173, R174: PENDING and ERROR1 continue the data phase. -/
theorem test_pending_continues :
    nextOf (fun t => ((t.master 0).is.dpt, (t.slave 0).downer)) (exec (.pending .absent) (phase (rdW 0) false .rest)) =
      some (some (.slave 0), some 0) := by decide
theorem test_error1_continues :
    nextOf (fun t => ((t.master 0).is.dpt, t.masterMon.map LinkMon.err1))
        (exec (.error1 .absent) (phase (rdW 0) false .rest)) = some (some (.slave 0), [true]) := by decide

/-- L1-1 in cycle 0: both masters request, the arbiter has no owner, both receive DENY. -/
theorem test_deny_at_reset :
    nextOf (fun t => t.last.grants)
        (exec .deny ((State.resetOf (cfg2 .roundRobin)
          [{ CycleInput.rest with m2s := [readBundle 2 cmd0, readBundle 2 cmd0] }]))) =
      some [some .deny, some .deny] := by decide

/-- R208's example: both request, the highest index wins in the same cycle. -/
theorem test_grant_reversed :
    nextOf (fun t => t.last.grants)
        (exec .grant ((State.resetOf (cfg2 .combFixedReversed)
          [{ CycleInput.rest with port := 1, m2s := [readBundle 2 cmd0, readBundle 2 cmd0] }]))) =
      some [some .deny, some .grant] := by decide

/-- The host's first step: a table word placed by `withFetchWord` is decoded and run. -/
theorem test_fetch_word : nextOf State.cycle (step (State.reset.withFetchWord 16 0x0C25)) = some 1 := by decide
theorem test_fetch_grant : nextOf (fun t => t.last.grants.head?) (step (State.reset.withFetchWord 1 1)) =
    some (some (some .grant)) := by decide

/-! ### One step of a component. -/

/-- The example of R204: A and B both request, the pointer is at A, B is next. -/
theorem test_round_robin_rotates :
    (ArbReg.next .roundRobin { owner := some 0, ptr := some 0, prevReady := true }
      { reqs := [0, 1], rdy := true, last := idleAP, downer := none, nm := 2 }) =
      { owner := some 1, ptr := some 1, prevReady := true } := by decide

/-- The example of R203: a wait state keeps the decision. -/
theorem test_wait_state_holds :
    (ArbReg.next .roundRobin { owner := some 0, ptr := some 0, prevReady := true }
      { reqs := [1], rdy := false, last := idleAP, downer := none, nm := 2 }).owner = some 0 := by decide

/-- The example of R206: the lowest index wins. -/
theorem test_fixed_priority :
    (ArbReg.next .fixedPriority { owner := some 1, ptr := none, prevReady := true }
      { reqs := [0, 1], rdy := true, last := idleAP, downer := none, nm := 2 }).owner = some 0 := by decide

/-- A line buffer of 4 bytes at reset, enabled. -/
def lb4 : LBReg := LBReg.reset 4 true

/-- `RD.B 0x2000 C` (R303). -/
def rdBC (a : Addr) : AP :=
  committedAP (readBundle 0 { cmd0 with addr := a, prot := { plain with cacheable := true } })

/-- R303, cycle 0: a miss fetches `RD.W 0x2000`, `CW 0x0C25`. -/
theorem test_miss_fetches :
    (lb4.down 4 (rdBC 0x2000) idleResp).ap.ctl = .xfer (rdWAt 0x2000) ∧
      (lb4.next 4 (rdBC 0x2000) idleResp none).st = .fetching := by decide

/-- R303, cycle 1: the fetch ends, the upstream gets its byte, the second read hits with nothing downstream. -/
theorem test_fetch_serves_and_next_hits :
    (lb4.next 4 (rdBC 0x2000) idleResp none).up { status := .success, data := .bytes [0x11, 0x22, 0x33, 0x44] } =
        { status := .success, data := .bytes [0x11] } ∧
      ((lb4.next 4 (rdBC 0x2000) idleResp none).down 4 (rdBC 0x2000)
        { status := .success, data := .bytes [0x11, 0x22, 0x33, 0x44] }).ap.ctl = .idle := by decide

/-- The example of R297: `F = 11 22 33 44`, `off = 2`, `n = 2` gives `0x4433`. -/
theorem test_extract : busToNat (extract [0x11, 0x22, 0x33, 0x44] 2 2) = some 0x4433 := by decide

/-- R332, cycle 1: SUCCESS upstream while the slave waits; the data is kept. -/
theorem test_early_success :
    (WBReg.up { st := .bufferedWriteFirst, bap := some (wrWB 0x1000), bdata := none, held := none }
        { status := .pending, data := .absent }) = idleResp ∧
      (WBReg.next { st := .bufferedWriteFirst, bap := some (wrWB 0x1000), bdata := none, held := none }
        { ap := idleAP, dp := word } { status := .pending, data := .absent }) =
        { st := .bufferedWriteAsync, bap := some (wrWB 0x1000), bdata := some word, held := none } := by decide

/-- R333, edge 4: a read that waited goes down after an injected idle phase. -/
theorem test_injected_idle :
    (WBReg.next { st := .bufferedWriteAsync, bap := some (wrWB 0x1000), bdata := some word, held := some (rdW 0x1004) }
        { ap := idleAP, dp := .absent } idleResp) =
      { st := .idleInjectionDone, bap := none, bdata := none, held := some (rdW 0x1004) } := by decide

/-! ### Witnesses: for every statement with hypotheses, a concrete state and operands that meet all of them, for each clause
at boundary values. -/

/-- Every port but the one in focus rests. -/
def at_ (p : Nat) : CycleInput := { CycleInput.rest with port := p }

/-- The read in data phase at slave 0, the message in focus on port 0. -/
def reading : State := phase (rdW 0) false (at_ 0)

/-- A write buffer draining `wrWB 0x1000` with a read held behind it. -/
def draining : WBReg :=
  { st := .bufferedWriteAsync, bap := some (wrWB 0x1000), bdata := some word, held := some (rdW 0x1004) }

/-- A block whose one slave's write buffer is `draining`, the slave answering `r`. -/
def buffered (r : Resp) : State :=
  let s := State.resetOf (cfg1 (.singleMaster 0) [.wb]) [{ at_ 0 with resp := [r] }]
  { s with
    masters := [{ is := { held := none, dpt := some (.slave 0) }, dflt := .idle, ddowner := none }]
    slaves := [{ SlaveRegs.reset { arb := .singleMaster 0, chain := [.wb], linkBytes := 8 } with
      downer := some 0, wb := draining }]
    masterMon := [{ dp := some (rdW 0x1004), err1 := false }]
    slaveMon := [[{ dp := some (rdW 0x1004), err1 := false }, { dp := some (wrWB 0x1000), err1 := false }]] }

/-- A block after reset, its masters driving the given bundles. -/
def driving (c : Cfg) (p : Nat) (bs : List M2S) : State := State.resetOf c [{ at_ p with m2s := bs }]

/-- A state's own cycle. -/
def cycleOf (s : State) : Cycle := { st := s, inp := s.input }

def isNext (o : Host.Outcome State Fault Refusal) : Bool := (nextOf (fun _ => ()) o).isSome

theorem witness_DecodeEncodeRoundTrip : (Instr.wrW { cmd0 with dp := word }).wf = true ∧ Instr.grant.wf = true := by decide

theorem witness_IgnoredBitsHaveNoEffect :
    ((0x7FFE : ControlWord).getLsbD 15 = (0x0000 : ControlWord).getLsbD 15 ∧ (0x7FFE : ControlWord).getLsbD 0 = false ∧
      (0x0000 : ControlWord).getLsbD 0 = false) ∧
    ((0xFFF9 : ControlWord).getLsbD 15 = (0x8001 : ControlWord).getLsbD 15 ∧
      (0xFFF9 : ControlWord).extractLsb' 0 3 = 1 ∧ (0x8001 : ControlWord).extractLsb' 0 3 = 1) := by decide

theorem witness_WidthTagsAndPayload : decodeBusValue 3 0x11223344 = .ok word ∧ decodeBusValue 0 7 = .ok .absent := by
  decide

theorem witness_LittleEndianIntegers : 3 < 4 ∧ 0x11223344 < 256 ^ 4 := by decide

theorem witness_ResetRegisterValues :
    validCfg (cfg1 (.singleMaster 0) [.wb, .lb 8 true]) = true ∧ 0 < (cfg1 (.singleMaster 0) [.wb, .lb 8 true]).nm ∧
      0 < (cfg1 (.singleMaster 0) [.wb, .lb 8 true]).ns ∧
      Adapter.lb 8 true ∈ ((cfg1 (.singleMaster 0) [.wb, .lb 8 true]).slave 0).chain ∧
      ((cfg1 (.singleMaster 0) [.wb, .lb 8 true]).slave 0).arb = .singleMaster 0 ∧
      validCfg exampleCfg = true ∧ (exampleCfg.slave 0).arb = .roundRobin := by decide

/-- Reset asserted while a read is in data phase, and in a configuration that has no model. -/
theorem witness_ResetDiscardsEverything :
    (phase (rdW 0) false { at_ 0 with reset := true }).input.reset = true ∧
      validCfg (phase (rdW 0) false { at_ 0 with reset := true }).cfg = true ∧
      validCfg { exampleCfg with masters := [] } = false := by decide
/-- R11: a configuration that violates it is refused at reset too. -/
theorem test_reset_refuses_invalid :
    refusalOf (step (State.resetOf { exampleCfg with masters := [] } [{ at_ 0 with reset := true }])) =
      some .invalidConfig := by decide

theorem witness_CycleZeroAfterReset :
    (phase (rdW 0) false { at_ 0 with reset := true }).input.reset = true ∧
      validCfg (phase (rdW 0) false { at_ 0 with reset := true }).cfg = true ∧ 1 < exampleCfg.ns ∧
      (exampleCfg.slave 0).arb = .roundRobin ∧ (exampleCfg.slave 1).arb = .fixedPriority := by decide

theorem witness_ResetMeetsInvariant :
    validCfg exampleCfg = true ∧ validCfg (cfg1 .combFixed [.lb 8 false, .wb]) = true := by decide

theorem witness_StepRunsDecodedInstruction :
    reading.input.reset = false ∧ decode reading.input.bits = .ok (.nosel false .absent) := by decide

theorem witness_TableWordRunsNext :
    decodeTableWord 16 0x0C25 = some (.rdW cmd0) ∧ decodeTableWord 8 3 = some (.error2 .absent) ∧
      decodeTableWord 1 0 = some .deny := by decide

theorem witness_StepKeepsConfiguration :
    isNext (step (phase (rdW 0) false { at_ 0 with reset := true })) = true ∧
      isNext (step (rest exampleCfg 0)) = true := by decide

/-- A base off the granule, a size off it, and the last byte of a word at a range's end. -/
theorem witness_RangeGranularity :
    (let c : Cfg := { exampleCfg with masters :=
        [{ ranges := [{ base := 4, size := 8, slave := 0 }, { base := 16, size := 12, slave := 0 }]
           unmapped := .noTarget, linkBytes := 4 }] };
      0 < (rest c 0).cfg.nm ∧ (∀ r ∈ ((rest c 0).cfg.master 0).ranges,
        r.base % (if (rest c 0).cfg.w16 then 16 else 8) ≠ 0 ∨ r.size % (if (rest c 0).cfg.w16 then 16 else 8) ≠ 0) ∧
        portExists (.rdW cmd0) (rest c 0) = true ∧ portExists (.success .absent) (rest c 0) = true) ∧
    validCfg exampleCfg = true ∧ 0 < exampleCfg.nm ∧ checkXfer exampleCfg.w16 4 (rdWAt 0x1FFFC) = none ∧
      3 < sizeBytes (rdWAt 0x1FFFC).size := by decide

theorem witness_RouteInvariantKept : RouteInvariant reading ∧ isNext (step { reading with
    inputs := [{ at_ 0 with resp := [{ status := .success, data := word }] }] }) = true := by decide

theorem witness_AdapterInvariantKept :
    RouteInvariant (buffered idleResp) ∧ AdapterInvariant (buffered idleResp) ∧
      isNext (step (buffered idleResp)) = true := by decide

theorem witness_LinkInvariantKept :
    Sys2Proof.Machine.Invariant (buffered idleResp) ∧
      AgentsObey { st := buffered idleResp, inp := cycleInput (.success .absent) (buffered idleResp) } ∧
      isNext (exec (.success .absent) (buffered idleResp)) = true := ⟨by decide, by decide, by decide⟩

theorem witness_ObedientAgentsNoViolation :
    Sys2Proof.Machine.Invariant reading ∧
      AgentsObey { st := reading, inp := cycleInput (.success word) reading } := ⟨by decide, by decide⟩

/-- The hypotheses of the completion statement. -/
abbrev Completes (i : Instr) (s : State) : Prop :=
  portExists i s = true ∧ validCfg s.cfg = true ∧ Sys2Proof.Machine.Invariant s ∧
    AgentsObey { st := s, inp := cycleInput i s } ∧ NoFatalCause { st := s, inp := cycleInput i s }

/-- A command while a buffered write drains, one that starts a transfer, and a response. -/
theorem witness_CommandsAndResponsesComplete_waiting :
    Completes (.busy false 2 0 false cmd0) (buffered { status := .pending, data := .absent }) :=
  ⟨by decide, by decide, by decide, by decide, by decide, by decide⟩
theorem witness_CommandsAndResponsesComplete_write :
    Completes (.wrH { cmd0 with addr := 0x20000002 }) (rest exampleCfg 1) :=
  ⟨by decide, by decide, by decide, by decide, by decide, by decide⟩
theorem witness_CommandsAndResponsesComplete_response : Completes (.success word) reading :=
  ⟨by decide, by decide, by decide, by decide, by decide, by decide⟩

theorem witness_GrantMessagesComplete :
    (let s := driving (cfg1 (.singleMaster 0) []) 0 [readBundle 2 cmd0];
      s.input.port < s.cfg.nm ∧ validCfg s.cfg = true ∧ (cycleOf s).stop = none ∧
        (cycleOf s).grant s.input.port = some .grant) ∧
    (let s := driving (cfg1 .roundRobin []) 0 [readBundle 2 cmd0];
      s.input.port < s.cfg.nm ∧ validCfg s.cfg = true ∧ (cycleOf s).stop = none ∧
        (cycleOf s).grant s.input.port = some .deny) := by decide

theorem witness_GrantTotality :
    (cycleOf (driving exampleCfg 0 [readBundle 2 cmd0])).target 0 = some (.slave 0) ∧
      (cycleOf (driving exampleCfg 0 [readBundle 2 cmd0])).target 1 = none := by decide

theorem witness_AcceptedTransferIsForwarded :
    (cycleOf (driving (cfg2 .combFixedReversed) 0 [readBundle 2 cmd0, readBundle 2 cmd0])).portGrant 1 (.slave 0) =
      some .grant := by decide

theorem witness_ForwardedPhaseIsCommitted :
    (let c := cycleOf (driving (cfg2 .combFixed) 0 [readBundle 2 cmd0, readBundle 2 cmd0]);
      c.own 0 = some 0 ∧ c.target 0 = some (.slave 0) ∧ c.committed 0 = true) ∧
    ∀ m, (cycleOf (driving (cfg2 .roundRobin) 0 [readBundle 2 cmd0])).own 0 = some m →
      ¬((cycleOf (driving (cfg2 .roundRobin) 0 [readBundle 2 cmd0])).target m = some (.slave 0) ∧
        (cycleOf (driving (cfg2 .roundRobin) 0 [readBundle 2 cmd0])).committed m = true) := by
  constructor
  · decide
  · intro m h
    rw [show (cycleOf (driving (cfg2 .roundRobin) 0 [readBundle 2 cmd0])).own 0 = none by decide] at h
    cases h

theorem witness_GrantStartsDataPhase :
    (let s := driving (cfg1 (.singleMaster 0) []) 0 [readBundle 2 cmd0];
      0 < s.cfg.nm ∧ isNext (runCycle s s.input) = true ∧ (cycleOf s).grant 0 = some .grant ∧
        (cycleOf s).target 0 = some (.slave 0)) ∧
    (let s := driving (cfg1 (.singleMaster 0) []) 0 [readBundle 2 { cmd0 with addr := 0x10000 }];
      0 < s.cfg.nm ∧ isNext (runCycle s s.input) = true ∧ (cycleOf s).grant 0 = some .grant ∧
        (cycleOf s).target 0 = some .dflt) := by decide

/-- A write's data phase, and a cycle with no owner. -/
theorem witness_GrantStartsDataPhase_data :
    (let s := phase (wrW 0) false { at_ 0 with m2s := [{ ap := idleAP, dp := word }] };
      0 < s.cfg.ns ∧ RouteInvariant s ∧ (s.slave 0).downer = some 0 ∧ (cycleOf s).stageData 0 = word ∧
        (s.cfg.slave 0).chain = []) ∧
    RouteInvariant (rest exampleCfg 0) ∧ ((rest exampleCfg 0).slave 1).downer = none :=
  ⟨⟨by decide, by decide, by decide, by decide, by decide⟩, by decide, by decide⟩

theorem witness_DeniedTransferIsHeld :
    let s := driving (cfg1 .roundRobin []) 0 [readBundle 2 cmd0];
    RouteInvariant s ∧ 0 < s.cfg.nm ∧ isNext (runCycle s s.input) = true ∧ (cycleOf s).grant 0 = some .deny ∧
      (cycleOf s).committed 0 = true := by decide

theorem witness_UncommittedIsNeverSampled :
    let s := phase (rdW 0) false
      { at_ 0 with m2s := [burstBundle 3 true 7 true cmd0], resp := [{ status := .pending, data := .absent }] };
    0 < s.cfg.nm ∧ isNext (runCycle s s.input) = true ∧ (cycleOf s).committed 0 = false := by decide

theorem witness_ResponseReachesItsMasterOnly :
    ((cycleOf reading).st.slave 0).downer = some 0 ∧ ((cycleOf reading).st.slave 0).downer ≠ some 1 ∧
    (((cycleOf (rest (cfg1 .roundRobin []) 0)).st.slave 0).downer = none ∧
      (cycleOf { rest (cfg1 .roundRobin []) 0 with inputs := [{ at_ 0 with
        resp := [{ status := .pending, data := .absent }] }] }).stageResp 0 ≠ { status := .success, data := .absent }) ∧
    ∀ k, k ≠ 0 → ({ st := rest (cfg2 .roundRobin) 0, inp := { at_ 0 with resp := [idleResp] } } : Cycle).slaveResp k =
      ({ st := rest (cfg2 .roundRobin) 0
         inp := { at_ 0 with resp := [{ status := .success, data := word }] } } : Cycle).slaveResp k := by
  refine ⟨by decide, by decide, by decide, ?_⟩
  intro k hk
  cases k with
  | zero => exact absurd rfl hk
  | succ k => rfl

/-- The default slave's error while every slave answers SUCCESS; a slave's own error with no adapter in the way, through a
line buffer that fetches, and through a write buffer. -/
theorem witness_ErrorsOriginateAtSlaves :
    (let s : State := { rest (cfg1 (.singleMaster 0) []) 0 with
        masters := [{ is := { held := none, dpt := some .dflt }, dflt := .err2, ddowner := some 0 }] };
      (∀ n, ((cycleOf s).slaveResp n).status = .success ∨ ((cycleOf s).slaveResp n).status = .pending) ∧
        ((cycleOf s).resp 0).status = .error2) ∧
    ∀ p ∈ [([], LBState.idle), ([Adapter.lb 8 true], .fetching), ([.wb], .idle), ([.wb, .lb 8 true], .transparent)],
      let s : State := { rest (cfg1 (.singleMaster 0) p.1) 0 with
        masters := [{ is := { held := none, dpt := some (.slave 0) }, dflt := .idle, ddowner := none }]
        slaves := [{ SlaveRegs.reset { arb := .singleMaster 0, chain := p.1, linkBytes := 8 } with
          downer := some 0, lb := { LBReg.reset 8 true with st := p.2 } }]
        inputs := [{ at_ 0 with resp := [{ status := .error1, data := .absent }] }] };
      (cycleOf s).slaveResp 0 = { status := .error1, data := .absent } ∧
        (hasLineBuffer (s.cfg.slave 0).chain = true → (s.slave 0).lb.st = .transparent ∨ (s.slave 0).lb.st = .fetching) ∧
        (hasWriteBuffer (s.cfg.slave 0).chain = true → (s.slave 0).wb.st = .transparent) ∧
        (s.master 0).is = { held := none, dpt := some (.slave 0) } ∧ (s.slave 0).downer = some 0 := by
  refine ⟨⟨fun n => .inl rfl, by decide⟩, by decide⟩

/-- A block that holds a read, and the cycle it is in. -/
def holding (a : AP) (p : Bool) : Cycle :=
  { st := { rest (cfg1 .roundRobin []) 0 with
      masters := [{ MasterRegs.reset with is := { held := some a, dpt := none } }] }
    inp := { at_ 0 with m2s := [readBundle 2 { cmd0 with ready := p, prot := { plain with priv := p } }] } }

/-- A read that is not privileged, and has a tag. -/
def userRead : AP := { committedAP (readBundle 2 { cmd0 with prot := { plain with priv := false } }) with tag := some 1 }

/-- Two states whose held reads differ in privilege and tag, with inputs that differ in privilege and the ready flag. -/
theorem witness_CarriedBitsDecideNothing :
    RouteInvariant (holding (rdW 0) true).st ∧
      SameButCarried (holding (rdW 0) true).st (holding userRead false).st ∧
      SameButCarriedInputs (holding (rdW 0) true) (holding userRead false) :=
  ⟨by decide, by decide, by decide⟩

theorem witness_FatalBeforeViolation :
    (let c := cycleOf (driving (cfg2 .roundRobin) 0 [idleM2S, readBundle 2 { cmd0 with addr := 2, dp := word }]);
      1 < c.st.cfg.nm ∧ (c.stageFault 1).isSome = true ∧ ∀ k < 1, c.stageFault k = none) ∧
    (let c := cycleOf (driving (cfg1 (.singleMaster 0) [.lb 8 true]) 0 [writeBundle 2 cmd0]);
      0 < c.st.cfg.ns ∧ (c.lineFault 0).isSome = true ∧ (∀ m < c.st.cfg.nm, c.stageFault m = none) ∧
        ∀ k < 0, c.lineFault k = none) := by decide

/-- What an arbiter of two masters reads when both request and the slave link is ready, or not. -/
def both (rdy : Bool) : ArbIn := { reqs := [0, 1], rdy := rdy, last := rdW 0, downer := none, nm := 2 }

theorem witness_RoundRobinFairness :
    (1 < 2 ∧ [both true, both true].length = 2 ∧
      ∀ i ∈ [both true, both true], i.nm = 2 ∧ i.rdy = true ∧ lockFlag i.last = false ∧ 1 ∈ i.reqs) ∧
    (both false).rdy = false := by decide

theorem witness_RoundRobinDecision :
    (∀ m ∈ (both true).reqs, m < (both true).nm) ∧ (both true).rdy = true ∧ lockFlag (both true).last = false ∧
      (both true).reqs ≠ [] ∧ (both false).rdy = false ∧
      ({ both true with reqs := [] } : ArbIn).reqs = [] := by decide

theorem witness_FixedPriorityDecision :
    (both true).reqs.Pairwise (· < ·) ∧ (both true).rdy = true ∧ lockFlag (both true).last = false ∧
      (both true).reqs ≠ [] ∧ (both false).rdy = false := by decide

theorem witness_CombinatorialDecision :
    (both true).reqs.Pairwise (· < ·) ∧ (both true).reqs ≠ [] ∧
      (ArbReg.reset .combFixed).prevReady = true ∧ ({ ArbReg.reset .combFixed with prevReady := false } : ArbReg).prevReady = false := by
  decide

theorem witness_ForeignMasterUnreachable :
    (let c := cycleOf (driving (cfg1 (.singleMaster 0) []) 0 [readBundle 2 cmd0]);
      validCfg c.st.cfg = true ∧ 0 < c.st.cfg.ns ∧ (c.st.cfg.slave 0).arb = .singleMaster 0 ∧ 0 ∈ c.reqs 0) ∧
    (let g : Cfg := { cfg1 .rejecting [] with masters := [{ ranges := [], unmapped := .noTarget, linkBytes := 8 }] };
      validCfg g = true ∧ 0 < g.ns ∧ (g.slave 0).arb = .rejecting) := by decide

theorem witness_LockNeverReachesArbiter :
    let c := cycleOf (driving (cfg1 (.singleMaster 0) []) 0 [readBundle 2 cmd0]);
    RouteInvariant c.st ∧ c.stop = none ∧ isXfer (c.stageAP 0) = true := by decide

/-- The first and the last address of a range, and the first past it. -/
theorem witness_DecodedTarget_covered :
    validCfg exampleCfg = true ∧ 1 < exampleCfg.nm ∧
      ({ base := 0x20000000, size := 0x5000, slave := 1 } : Range) ∈ (exampleCfg.master 1).ranges ∧
      0x20000000 ≤ (0x20000000 : Addr).toNat ∧ (0x20004FFF : Addr).toNat < 0x20000000 + 0x5000 :=
  ⟨by decide, by decide, by decide, by decide, by decide⟩
theorem witness_DecodedTarget_uncovered :
    ∀ r ∈ (exampleCfg.master 1).ranges,
      ¬(r.base ≤ (0x20005000 : Addr).toNat ∧ (0x20005000 : Addr).toNat < r.base + r.size) := by
  simp [exampleCfg, Cfg.master]

theorem witness_RoutingReachesOnePort :
    (let c := cycleOf (driving (cfg2 .roundRobin) 0 [readBundle 2 cmd0, idleM2S]);
      (c.cand 1).ctl = .idle ∧ (c.cand 0).ctl = .xfer (rdWAt 0) ∧
        decodeAddr (c.st.cfg.master 0) 0 = some (.slave 0) ∧ (c.st.master 0).is.held = none) := by decide

/-- 16 bytes up to a 1 KB boundary and up to the top of the address space. -/
theorem witness_AlignedNeverCrosses1KB :
    (4 : SizeCode).toNat ≤ 4 ∧ (0x3F0 : Addr).toNat % sizeBytes 4 = 0 ∧ (0xFFFFFFF0 : Addr).toNat % sizeBytes 4 = 0 := by
  decide

theorem witness_DefaultSlaveTwoCycleError :
    let s := driving (cfg1 (.singleMaster 0) []) 0 [readBundle 2 { cmd0 with addr := 0xFFFFFFFC }];
    RouteInvariant s ∧ 0 < s.cfg.nm ∧ (cycleOf s).target 0 = some .dflt ∧ (cycleOf s).committed 0 = true ∧
      (match runCycle s s.input with
        | .next t => isNext (runCycle t (at_ 0))
        | .fault _ => false
        | .refused _ => false) = true := by decide

theorem witness_LineBufferWriteIsFatal :
    (let s := driving (cfg1 (.singleMaster 0) [.wb, .lb 8 false]) 0 [writeBundle 2 cmd0];
      validCfg s.cfg = true ∧ 0 < s.cfg.ns ∧
        (Adapter.lb 8 false, { ap := wrW 0, dp := .absent }, idleResp) ∈ (cycleOf s).ports 0 ∧
        hready ((s.slave 0).lb.up idleResp) = true ∧ (∀ m < s.cfg.nm, (cycleOf s).stageFault m = none) ∧
        ∀ k < 0, (cycleOf s).lineFault k = none) ∧
    (∃ x, xferOf (wrW 0) = some x ∧ x.write = true) ∧
    hready (({ LBReg.reset 8 true with st := .fetching } : LBReg).up { status := .pending, data := .absent }) = false := by
  refine ⟨by decide, ⟨_, rfl, rfl⟩, by decide⟩

/-- The last bytes of a line, read one at a time and as the whole line. -/
theorem witness_SubRangeStaysInLine :
    (∀ x ∈ [{ rdWAt 0x2007 with size := 0 }, { rdWAt 0x2000 with size := 3 }],
      sizeBytes x.size ≤ 8 ∧ x.addr.toNat % sizeBytes x.size = 0) ∧
    (List.replicate 8 (0 : Byte)).length = 8 := by decide

theorem witness_MissFetchesWholeLine :
    xferOf (rdBC 0x2003) =
        some { rdWAt 0x2003 with size := 0, prot := { plain with cacheable := true } } ∧
      lb4.classify 4 (rdBC 0x2003) idleResp = .miss := by decide
/-- A read that is not cacheable, and a cacheable one while the cache is off. -/
theorem witness_MissFetchesWholeLine_pass :
    xferOf (rdW 0x3000) = some (rdWAt 0x3000) ∧ lb4.classify 4 (rdW 0x3000) idleResp = .pass ∧
      hready (lb4.up idleResp) = true ∧ (LBReg.reset 4 false).classify 4 (rdBC 0x2003) idleResp = .pass := by decide

theorem witness_LineBufferIdempotence :
    lb4.classify 4 (rdBC 0x2000) idleResp = .miss ∧ hready (lb4.up idleResp) = true ∧
      (∀ w ∈ [(rdBC 0x2003, ({ status := .pending, data := .absent } : Resp))], w.2.status = .pending) ∧
      ([0x11, 0x22, 0x33, 0x44] : List Byte).length = 4 ∧
      xferOf (rdBC 0x2003) = some { rdWAt 0x2003 with size := 0, prot := { plain with cacheable := true } } ∧
      alignDown 0x2003 4 = alignDown 0x2000 4 := by decide
/-- A line resident in the registers, an idle cycle, and a read of its last byte. -/
theorem witness_LineBufferIdempotence_resident :
    let r : LBReg := { lb4 with valid := true, laddr := 0x2000, line := [0x11, 0x22, 0x33, 0x44] };
    r.st ≠ .fetching ∧ r.enabled = true ∧ r.valid = true ∧
      (∀ w ∈ [(idleAP, idleResp)], isXfer w.1 = false ∧ hready w.2 = true) ∧ alignDown 0x2003 4 = r.laddr ∧
      hready ((lbRun 4 r [(idleAP, idleResp)]).up idleResp) = true ∧
      r.classify 4 (rdBC 0x2003) idleResp = .hit := by decide

theorem witness_FailedFetchFillsNothing :
    ({ LBReg.reset 8 true with st := .fetching } : LBReg).st = .fetching ∧ Status.error2 ≠ .success ∧
      Status.pending ≠ .success := by decide

/-- A request that takes effect, one that a fetch makes wait, and no request. -/
theorem witness_EnableToggle :
    (false ≠ lb4.enabled ∧ (lb4.next 4 idleAP idleResp none).st ≠ .fetching) ∧
      (lb4.next 4 (rdBC 0x2000) idleResp none).st = .fetching ∧ true = lb4.enabled := by decide

theorem witness_WriteBufferRoundTrip :
    WBReg.reset.st = .transparent ∧ wbInvariant WBReg.reset = true ∧ compatible (wrWB 0x1000) = true ∧
      hready idleResp = true ∧ ({ status := .pending, data := .absent } : Resp).status = .pending ∧
      ∀ p ∈ [(idleM2S, ({ status := .pending, data := .absent } : Resp))], p.2.status = .pending := by decide

theorem witness_LaterTransfersWait :
    wbInvariant draining = true ∧ draining.st = .bufferedWriteAsync ∧
      hready { status := .pending, data := .absent } = false ∧ hready idleResp = true ∧
      isXfer (draining.candidate idleAP) = true ∧ compatible (draining.candidate idleAP) = false := by decide
/-- The first cycle of a buffered write, and one that drains with a bufferable write or nothing behind it. -/
theorem witness_LaterTransfersWait_others :
    (let w : WBReg := { st := .bufferedWriteFirst, bap := some (wrWB 0x1000), bdata := none, held := none };
      wbInvariant w = true ∧ compatible (wrWB 0x1004) = true ∧ compatible (rdW 0x1004) = false) ∧
    (let w : WBReg := { draining with held := none };
      wbInvariant w = true ∧ compatible (w.candidate (wrWB 0x1004)) = true ∧
        isXfer (w.candidate idleAP) = false) := by decide

theorem witness_BufferedWriteErrorIsLost :
    wbInvariant draining = true ∧ draining.st ≠ .transparent ∧ draining.st = .bufferedWriteAsync ∧
      ({ status := .error1, data := .absent } : Resp).status = .error1 ∧
      ({ status := .error2, data := .absent } : Resp).status = .error2 ∧
      isXfer ((draining.next idleM2S { status := .error1, data := .absent }).candidate idleAP) = true ∧
      isXfer ((({ draining with held := none } : WBReg).next idleM2S
        { status := .error1, data := .absent }).candidate idleAP) = false := by decide

theorem witness_NoTransferCommands :
    AtRest (rest exampleCfg 2) ∧ (rest exampleCfg 2).input.port < (rest exampleCfg 2).cfg.nm ∧ word ≠ .absent := by decide

/-- The hypotheses of the statements about a transfer from rest. -/
def fromRest (s : State) (b : M2S) (x : Target) : Bool :=
  decide (AtRest s) && decide (s.input.port < s.cfg.nm) && decide (b.dp = .absent) &&
    match xferOf b.ap with
    | some f => decide (checkAll s.cfg s.input.port f = none) &&
        decide (decodeAddr (s.cfg.master s.input.port) f.addr = some x)
    | none => false

/-- Every read on an open route (with a line buffer, at the default slave, 16 bytes), and on a closed one. -/
theorem witness_ReadsFromRest :
    (readRows cmd0).all (fun r => fromRest (rest cfg16 0) (readBundle r.2 cmd0) (.slave 0) &&
      routeOpen (rest cfg16 0) 0 (.slave 0)) = true ∧
    fromRest (rest (cfg1 .combFixed [.wb, .lb 8 true]) 0) (readBundle 3 { cmd0 with addr := 0xFFF8 }) (.slave 0) = true ∧
      routeOpen (rest (cfg1 .combFixed [.wb, .lb 8 true]) 0) 0 (.slave 0) = true ∧
    fromRest (rest exampleCfg 0) (readBundle 0 { cmd0 with addr := 0x20000 }) .dflt = true ∧
      routeOpen (rest exampleCfg 0) 0 .dflt = true ∧
    fromRest (rest exampleCfg 0) (readBundle 0 { cmd0 with addr := 0x1FFFF }) (.slave 0) = true ∧
      routeOpen (rest exampleCfg 0) 0 (.slave 0) = false := by decide

/-- Every write on an open route with no adapter, a bufferable one at a write buffer, one at a line buffer, and one on a
closed route. -/
theorem witness_WritesFromRest :
    ((writeRows cmd0).all (fun r => fromRest (rest cfg16 0) (writeBundle r.2 cmd0) (.slave 0)) = true ∧
      routeOpen (rest cfg16 0) 0 (.slave 0) = true ∧ hasLineBuffer (cfg16.slave 0).chain = false) ∧
    (fromRest (rest (cfg1 .combFixed [.wb]) 0)
        (writeBundle 2 { cmd0 with prot := { plain with bufferable := true } }) (.slave 0) = true ∧
      routeOpen (rest (cfg1 .combFixed [.wb]) 0) 0 (.slave 0) = true ∧
      hasLineBuffer ((cfg1 .combFixed [.wb]).slave 0).chain = false) ∧
    (fromRest (rest (cfg1 .combFixed [.wb, .lb 8 true]) 0) (writeBundle 2 cmd0) (.slave 0) = true ∧
      routeOpen (rest (cfg1 .combFixed [.wb, .lb 8 true]) 0) 0 (.slave 0) = true ∧
      hasLineBuffer ((cfg1 .combFixed [.wb, .lb 8 true]).slave 0).chain = true) ∧
    (fromRest (rest exampleCfg 1) (writeBundle 0 { cmd0 with addr := 0x20004FFF }) (.slave 1) = true ∧
      routeOpen (rest exampleCfg 1) 1 (.slave 1) = false) := by decide

theorem witness_FailedCheckStops :
    let s := rest exampleCfg 1;
    commandBundle (.rdW { cmd0 with addr := 2 }) = some (readBundle 2 { cmd0 with addr := 2 }) ∧
      xferOf (readBundle 2 { cmd0 with addr := 2 }).ap = some (rdWAt 2) ∧ validCfg s.cfg = true ∧
      s.input.port < s.cfg.nm ∧ (s.master s.input.port).is.held = none ∧
      ({ st := s, inp := cycleInput (.rdW { cmd0 with addr := 2 }) s } : Cycle).committed s.input.port = true ∧
      (∀ k < s.input.port, ({ st := s, inp := cycleInput (.rdW { cmd0 with addr := 2 }) s } : Cycle).stageFault k = none) ∧
      checkAll s.cfg s.input.port (rdWAt 2) = some .misaligned := by decide
/-- Each clause of the fields at a boundary: 8 bytes on a 4-byte link, an odd half-word, the address past a range, its last
word, a slave's narrower link, 16 bytes without `W16`. -/
theorem witness_FailedCheckStops_fields :
    checkAll exampleCfg 0 { rdWAt 0 with size := 3 } = some .sizeTooWide ∧
      checkAll exampleCfg 0 { rdWAt 0x1FFFF with size := 1 } = some .misaligned ∧
      checkAll { cfg1 .roundRobin [] with masters := [{ ranges := [], unmapped := .noTarget, linkBytes := 8 }] } 0
        (rdWAt 0x20000) = some .noTarget ∧
      checkAll exampleCfg 0 (rdWAt 0x20000) = none ∧ checkAll exampleCfg 0 (rdWAt 0x1FFFC) = none ∧
      (let c : Cfg := { exampleCfg with masters := exampleCfg.masters.map fun k => { k with linkBytes := 8 } };
        validCfg c = true ∧ checkAll c 1 { rdWAt 0x40000000 with size := 3 } = some .sizeTooWide) ∧
      checkAll exampleCfg 0 { rdWAt 0 with size := 4 } = some .sizeReserved := by decide

theorem witness_ReservedCommandsStop :
    let s := rest exampleCfg 1;
    validCfg s.cfg = true ∧ s.input.port < s.cfg.nm ∧ (s.master s.input.port).is.held = none ∧
      ∀ r ∈ reservedRows true 7 5 true cmd0,
        ({ st := s, inp := cycleInput r.1 s } : Cycle).committed s.input.port = true ∧
          ∀ k < s.input.port, ({ st := s, inp := cycleInput r.1 s } : Cycle).stageFault k = none := by decide

/-- The read in data phase with its slave waiting, and beginning an error. -/
theorem witness_UncommittedCommandsComplete :
    ∀ st ∈ [Status.pending, .error1],
      let s := phase (rdW 0) false { at_ 0 with resp := [{ status := st, data := .absent }] };
      OnePhase s s.input.port 0 (rdW 0) false ∧ owesData (rdW 0) cmd0.dp = true ∧
        (∀ k < s.cfg.nm, k ≠ s.input.port → s.input.m2s.getD k idleM2S = idleM2S) ∧
        (∀ k < s.cfg.ns, s.input.resp.getD k idleResp =
          if k = 0 then { status := st, data := .absent } else idleResp) ∧
        ∀ e ∈ s.input.lbEn, e = none := by decide

/-- A read that succeeds or waits, a write that succeeds, and an error in its second cycle. -/
theorem witness_ResponsesToDataPhase_read :
    OnePhase reading 0 reading.input.port (rdW 0) false ∧ OnlyData reading 0 .absent ∧
      owesData (rdW 0) .absent = true ∧ owesRead (rdW 0) word = true ∧
      (∀ k < reading.cfg.ns, k ≠ reading.input.port → reading.input.resp.getD k idleResp = idleResp) ∧
      ∀ x ∈ reading.input.lbEn, x = none := by decide
theorem witness_ResponsesToDataPhase_write :
    OnePhase (phase (wrW 0) false { at_ 0 with m2s := [{ ap := idleAP, dp := word }] }) 0 0 (wrW 0) false ∧
      OnlyData (phase (wrW 0) false { at_ 0 with m2s := [{ ap := idleAP, dp := word }] }) 0 word ∧
      owesData (wrW 0) word = true ∧ owesRead (wrW 0) .absent = true := by decide
theorem witness_ResponsesToDataPhase_error :
    OnePhase (phase (rdW 0) true (at_ 0)) 0 0 (rdW 0) true ∧ OnlyData (phase (rdW 0) true (at_ 0)) 0 .absent := by decide

theorem witness_ResponsesOutOfProtocol :
    OnePhase reading 0 reading.input.port (rdW 0) false ∧ OnlyData reading 0 .absent ∧ owesData (rdW 0) .absent = true ∧
      (∀ k < reading.cfg.ns, k ≠ reading.input.port → reading.input.resp.getD k idleResp = idleResp) ∧
      (∀ x ∈ reading.input.lbEn, x = none) ∧
      (Instr.success (.bytes [1]), Status.success) ∈ [(Instr.success (.bytes [1]), Status.success),
        (.pending (.bytes [1]), .pending), (.error1 (.bytes [1]), .error1), (.error2 (.bytes [1]), .error2)] ∧
      widthOf (.bytes [1]) ≠ LinkMon.readWidth { dp := some (rdW 0), err1 := false } .success ∧
      widthOf .absent = LinkMon.readWidth { dp := some (rdW 0), err1 := false } .error2 ∧
      false ≠ decide (Status.error2 = .error2) := by decide

/-- A slave with a line buffer and one with none. -/
theorem witness_ResponsesToIdleDataPhase :
    AtRest (rest exampleCfg 0) ∧ AtRest (rest exampleCfg 2) ∧ (rest exampleCfg 2).input.port < (rest exampleCfg 2).cfg.ns ∧
      hasLineBuffer (exampleCfg.slave 0).chain = true ∧ hasLineBuffer (exampleCfg.slave 2).chain = false := by
  decide

theorem witness_GrantAndDenyFromRest :
    (fromRest (rest (cfg1 (.singleMaster 0) [.lb 8 true]) 0) (readBundle 2 cmd0) (.slave 0) = true ∧
      routeOpen (rest (cfg1 (.singleMaster 0) [.lb 8 true]) 0) 0 (.slave 0) = true ∧
      ∀ f ∈ xferOf (readBundle 2 cmd0).ap, f.write = false) ∧
    (fromRest (rest exampleCfg 1) (writeBundle 2 { cmd0 with addr := 0x40000000 }) (.slave 2) = true ∧
      routeOpen (rest exampleCfg 1) 1 (.slave 2) = false ∧ hasLineBuffer (exampleCfg.slave 2).chain = false) := by decide

end Sys2Proof.Tests
end

section
/-! Settles O9, O14 and O36 (00_scope.md): reset and configuration are read off what a step and a cycle can do; that no
foreign master requests a stage comes from one inclusion, that whoever requests an output stage reaches its slave. -/

namespace Sys2Proof.Machine

/-! A step. -/

/-- While reset is asserted a step is the reset, whatever the message in focus is. -/
theorem step_of_reset (s : State) (h : s.input.reset = true) : step s = runReset s := by
  rw [step, if_pos h]

/-- Settles O9: the step is the reset, which asks only whether the configuration has a model. -/
theorem resetDiscardsEverything : Obligations.ResetDiscardsEverything := by
  intro s hreset
  rw [step_of_reset s hreset, runReset_eq]
  constructor
  · intro hvalid
    rw [if_pos hvalid]
  · intro hinvalid
    simp [hinvalid]

/-- What every cycle that answers a next state does to the fields that are not registers. -/
theorem runCycle_next_frame (s t : State) (inp : CycleInput) (h : runCycle s inp = .next t) :
    t.cfg = s.cfg ∧ validCfg s.cfg = true ∧ t.inputs = s.inputs.tail ∧ t.cycle = s.cycle + 1 := by
  obtain ⟨hvalid, -, rfl⟩ := runCycle_next s t inp h
  exact ⟨edge_cfg _, hvalid, edge_inputs _, edge_cycle _⟩

/-- Settles O14, by the two things a step can be: the reset, or one cycle. -/
theorem stepKeepsConfiguration : Obligations.StepKeepsConfiguration := by
  intro s t h
  obtain ⟨hreset, hvalid, rfl⟩ | ⟨hreset, inp, hcycle⟩ := step_next s t h
  · exact ⟨resetOf_cfg _ _, hvalid, resetOf_inputs _ _, .inl ⟨hreset, resetOf_cycle _ _⟩⟩
  · obtain ⟨hcfg, hvalid, hinputs, hindex⟩ := runCycle_next_frame s t inp hcycle
    exact ⟨hcfg, hvalid, hinputs, .inr ⟨hreset, hindex⟩⟩

/-! The configurations that have a model (R11). -/

theorem validCfg_iff (c : Cfg) :
    validCfg c = true ↔
      1 ≤ c.nm ∧ 1 ≤ c.ns ∧ (∀ k ∈ c.masters, validMaster c k = true) ∧ ∀ n < c.ns, validSlave c n = true := by
  simp [validCfg, and_assoc]

theorem validSlave_iff (c : Cfg) (n : Nat) :
    validSlave c n = true ↔
      validArb c n (c.slave n).arb = true ∧ validLink (c.slave n).linkBytes = true ∧
        validChain c.w16 (c.slave n).linkBytes (c.slave n).chain = true := by
  simp [validSlave, and_assoc]

theorem validArb_of_validCfg (c : Cfg) (n : Nat) (hvalid : validCfg c = true) (hn : n < c.ns) :
    validArb c n (c.slave n).arb = true := by
  obtain ⟨-, -, -, hslaves⟩ := (validCfg_iff c).1 hvalid
  obtain ⟨harb, -, -⟩ := (validSlave_iff c n).1 (hslaves n hn)
  exact harb

theorem validArb_singleMaster (c : Cfg) (n m : Nat) :
    validArb c n (.singleMaster m) = true ↔ reachers c n = [m] := beq_iff_eq

theorem validArb_rejecting (c : Cfg) (n : Nat) : validArb c n .rejecting = true ↔ reachers c n = [] := beq_iff_eq

theorem mem_reachers (c : Cfg) (n m : Nat) : m ∈ reachers c n ↔ m < c.nm ∧ reaches (c.master m) n = true := by
  simp [reachers]

/-- An address decodes to a slave only by a range that names the slave (R181). -/
theorem reaches_of_decodeAddr (k : MasterCfg) (a : Addr) (n : Nat) (h : decodeAddr k a = some (.slave n)) :
    reaches k n = true := by
  unfold decodeAddr at h
  split at h
  next r hfind =>
    obtain rfl : r.slave = n := by simpa using h
    exact List.any_eq_true.2 ⟨r, List.mem_of_find?_eq_some hfind, beq_self_eq_true _⟩
  next => split at h <;> simp at h

theorem reaches_of_targetOf (k : MasterCfg) (ap : AP) (n : Nat) (h : targetOf k ap = some (.slave n)) :
    reaches k n = true := by
  unfold targetOf at h
  split at h
  next x _ => exact reaches_of_decodeAddr k x.addr n h
  next => cases h

/-! Who requests an output stage (R261). -/

/-- The requesters are the masters whose candidate has the slave as its target. -/
theorem mem_reqs (c : Cycle) (n m : Nat) : m ∈ c.reqs n ↔ m < c.st.cfg.nm ∧ c.target m = some (.slave n) := by
  simp [Cycle.reqs, Cycle.masterIds, isXfer_contrib]

/-- Whoever requests an output stage reaches its slave: R11 constrains the requests of a cycle through this alone. -/
theorem mem_reachers_of_mem_reqs (c : Cycle) (n m : Nat) (h : m ∈ c.reqs n) : m ∈ reachers c.st.cfg n := by
  obtain ⟨hm, htarget⟩ := (mem_reqs c n m).1 h
  exact (mem_reachers c.st.cfg n m).2 ⟨hm, reaches_of_targetOf _ _ n htarget⟩

/-- A stage whose owner is nobody forwards Idle (R263). -/
theorem stageAP_ctl_of_own_none (c : Cycle) (n : Nat) (h : c.own n = none) : (c.stageAP n).ctl = .idle := by
  obtain ⟨o, hown, -⟩ | hidle := stageAP_cases c n
  · rw [h] at hown; cases hown
  · rw [hidle]

/-! The owner at the two stages that do not arbitrate (R202, R209). -/

theorem own_of_singleMaster (c : Cycle) (n m : Nat) (h : (c.st.cfg.slave n).arb = .singleMaster m) :
    c.own n = some m := by
  rw [Cycle.own, h]; rfl

theorem own_of_rejecting (c : Cycle) (n : Nat) (h : (c.st.cfg.slave n).arb = .rejecting) : c.own n = none := by
  rw [Cycle.own, h]; rfl

/-! The requests there, in a configuration that has a model. -/

section
variable (c : Cycle) (n : Nat) (hvalid : validCfg c.st.cfg = true) (hn : n < c.st.cfg.ns)
include hvalid hn

theorem eq_of_mem_reqs_of_singleMaster (m k : Nat) (harb : (c.st.cfg.slave n).arb = .singleMaster m)
    (hk : k ∈ c.reqs n) : k = m := by
  have hreach := validArb_of_validCfg c.st.cfg n hvalid hn
  rw [harb, validArb_singleMaster] at hreach
  have hmem := mem_reachers_of_mem_reqs c n k hk
  rw [hreach] at hmem
  exact List.mem_singleton.1 hmem

theorem reqs_of_rejecting (harb : (c.st.cfg.slave n).arb = .rejecting) : c.reqs n = [] := by
  have hreach := validArb_of_validCfg c.st.cfg n hvalid hn
  rw [harb, validArb_rejecting] at hreach
  refine List.eq_nil_iff_forall_not_mem.2 fun k hk => ?_
  have hmem := mem_reachers_of_mem_reqs c n k hk
  rw [hreach] at hmem
  exact List.not_mem_nil hmem

/-- FOREIGN_MASTER is a condition of two variants only, and R11 leaves neither a request to raise it. -/
theorem foreignMaster_eq_none : c.foreignMaster n = none := by
  refine (violationIf_none _ _ _ _).2 ?_
  cases harb : (c.st.cfg.slave n).arb with
  | singleMaster m =>
    refine List.any_eq_false.2 fun k hk => ?_
    simp [eq_of_mem_reqs_of_singleMaster c n hvalid hn m k harb hk]
  | rejecting => rw [reqs_of_rejecting c n hvalid hn harb]; rfl
  | roundRobin => rfl
  | fixedPriority => rfl
  | combFixed => rfl
  | combFixedReversed => rfl

end

/-- Settles O36: the constant owners, with what R11 leaves of the requests at their stages. -/
theorem foreignMasterUnreachable : Obligations.ForeignMasterUnreachable := by
  intro c n hvalid hn
  refine ⟨foreignMaster_eq_none c n hvalid hn, fun m harb => ⟨own_of_singleMaster c n m harb, fun k hk => ?_⟩,
    fun harb => ?_⟩
  · exact eq_of_mem_reqs_of_singleMaster c n hvalid hn m k harb hk
  · have hown := own_of_rejecting c n harb
    exact ⟨hown, reqs_of_rejecting c n hvalid hn harb, stageAP_ctl_of_own_none c n hown⟩

end Sys2Proof.Machine
end

section
/-! What a line buffer, a write buffer and a chain of them do in a cycle, said once for the invariants of the registers
and of the links: what an adapter samples and passes down (45_line_buffer.md, 46_write_buffer.md), and which port of a
chain its registers follow (47_interconnect.md R361). -/

namespace Sys2Proof.Machine

/-! Data phases of a monitor (R142). -/

@[simp] theorem linkMon_next_xfer (k : LinkMon) (w : Wire) :
    (k.next w).xfer = if hready w.resp then xferOf w.ap else k.xfer := by
  cases hx : xferOf w.ap <;> cases hr : hready w.resp <;> simp [LinkMon.next, LinkMon.xfer, isXfer, hx, hr]

@[simp] theorem linkMon_next_err1 (k : LinkMon) (w : Wire) : (k.next w).err1 = decide (w.resp.status = .error1) := rfl

theorem status_ne_error1_of_hready (r : Resp) (h : hready r = true) : r.status ≠ .error1 := by
  intro he
  simp [hready, statusReady, he] at h

/-! The line buffer (R292 to R301). -/

/-- The classes of R292, with what each says of the address phase. -/
theorem lb_classify_cases (r : LBReg) (L : Nat) (a : AP) (rd : Resp) :
    (xferOf a = none ∧ r.classify L a rd = .idle) ∨
      ∃ x, xferOf a = some x ∧
        ((x.write = true ∧ r.classify L a rd = .write) ∨
          (x.write = false ∧
            (r.classify L a rd = .pass ∨ (r.hit L x.addr rd = true ∧ r.classify L a rd = .hit) ∨
              r.classify L a rd = .miss))) := by
  unfold LBReg.classify
  cases xferOf a with
  | none => exact .inl ⟨rfl, rfl⟩
  | some x => grind

/-- The transfer a line buffer passes down (R299). -/
theorem xferOf_lb_down (r : LBReg) (L : Nat) (a : AP) (rd : Resp) :
    xferOf (r.down L a rd).ap =
      match r.classify L a rd with
      | .idle => none
      | .hit => none
      | .write => xferOf a
      | .pass => xferOf a
      | .miss => (xferOf a).map (fetchXfer L) := by
  unfold LBReg.down
  cases r.classify L a rd with
  | miss => cases xferOf a <;> rfl
  | _ => rfl

/-- The line a hit is tested against is the one the fill leaves (R295, R301). -/
theorem lb_postFill_eq_fill (r : LBReg) (rd : Resp) :
    r.postFill rd = ((r.fill rd).valid, (r.fill rd).laddr, (r.fill rd).line) := by
  unfold LBReg.postFill LBReg.fill
  split <;> rfl

theorem lb_fill_of_not_success (r : LBReg) (rd : Resp) (h : rd.status ≠ .success) : r.fill rd = r := by
  simp [LBReg.fill, h]

section
variable (q : LBReg) (en : Option Bool)

/-- A toggle changes no field but the enable and `valid` (R300). -/
theorem lb_toggle_eq :
    q.toggle en = { q with enabled := (q.toggle en).enabled, valid := (q.toggle en).valid } := by
  unfold LBReg.toggle
  split
  next => rfl
  next e => split <;> rfl

@[simp] theorem lb_toggle_st : (q.toggle en).st = q.st := by rw [lb_toggle_eq]
@[simp] theorem lb_toggle_laddr : (q.toggle en).laddr = q.laddr := by rw [lb_toggle_eq]
@[simp] theorem lb_toggle_line : (q.toggle en).line = q.line := by rw [lb_toggle_eq]
@[simp] theorem lb_toggle_off : (q.toggle en).off = q.off := by rw [lb_toggle_eq]
@[simp] theorem lb_toggle_rsize : (q.toggle en).rsize = q.rsize := by rw [lb_toggle_eq]
@[simp] theorem lb_toggle_faddr : (q.toggle en).faddr = q.faddr := by rw [lb_toggle_eq]

/-- A toggle makes no line resident. -/
theorem lb_valid_of_toggle_valid (h : (q.toggle en).valid = true) : q.valid = true := by
  unfold LBReg.toggle at h
  split at h
  next => exact h
  next e =>
    split at h
    · cases h
    · exact h

end

section
variable (q : LBReg) (L : Nat) (cls : LBClass) (x : Option Xfer)

/-- Sampling an address phase leaves the line alone (R301). -/
@[simp] theorem lb_sample_valid : (q.sample L cls x).valid = q.valid := by cases cls <;> cases x <;> rfl
@[simp] theorem lb_sample_laddr : (q.sample L cls x).laddr = q.laddr := by cases cls <;> cases x <;> rfl
@[simp] theorem lb_sample_line : (q.sample L cls x).line = q.line := by cases cls <;> cases x <;> rfl

end

section
variable (r : LBReg) (L : Nat) (a : AP) (rd : Resp) (en : Option Bool)

theorem lb_next_of_ready (h : hready (r.up rd) = true) :
    r.next L a rd en = ((r.fill rd).sample L (r.classify L a rd) (xferOf a)).toggle en := by
  simp [LBReg.next, h]

/-- A line buffer that does not sample is in a data phase that waits, and changes nothing but by a toggle. -/
theorem lb_next_of_waiting (h : hready (r.up rd) = false) :
    r.next L a rd en = r.toggle en ∧ (r.st = .transparent ∨ r.st = .fetching) := by
  have hst : (r.st = .transparent ∨ r.st = .fetching) ∧ rd.status ≠ .success := by
    cases hs : r.st <;> cases hrd : rd.status <;> simp [LBReg.up, hs, hrd, hready, statusReady, idleResp] at h ⊢
  simp [LBReg.next, h, lb_fill_of_not_success r rd hst.2, hst.1]

/-- The line at the edge is the one the fill leaves. -/
theorem lb_next_line : (r.next L a rd en).line = (r.fill rd).line := by
  unfold LBReg.next; split <;> simp

theorem lb_next_laddr : (r.next L a rd en).laddr = (r.fill rd).laddr := by
  unfold LBReg.next; split <;> simp

theorem lb_valid_of_next_valid (h : (r.next L a rd en).valid = true) : (r.fill rd).valid = true := by
  unfold LBReg.next at h
  have := lb_valid_of_toggle_valid _ _ h
  split at this
  · simpa using this
  · exact this

/-- What a line buffer that is ready, and samples no write, takes on as its next data phase, and what it passes down
(R299, R301). -/
theorem lb_next_sampled (hready : hready (r.up rd) = true) (hwrite : r.writeSampled L a rd = false) :
    (xferOf a = none ∧ (r.next L a rd en).st = .idle ∧ xferOf (r.down L a rd).ap = none) ∨
      ∃ x, xferOf a = some x ∧ x.write = false ∧
        (((r.next L a rd en).st = .transparent ∧ xferOf (r.down L a rd).ap = some x) ∨
          ((r.next L a rd en).st = .localHit ∧ (r.next L a rd en).rsize = x.size ∧
            (r.next L a rd en).off = lineOffset x.addr L ∧ (r.fill rd).valid = true ∧
            xferOf (r.down L a rd).ap = none) ∨
          ((r.next L a rd en).st = .fetching ∧ (r.next L a rd en).rsize = x.size ∧
            (r.next L a rd en).off = lineOffset x.addr L ∧ (r.next L a rd en).faddr = alignDown x.addr L ∧
            xferOf (r.down L a rd).ap = some (fetchXfer L x))) := by
  rw [lb_next_of_ready r L a rd en hready, xferOf_lb_down]
  obtain ⟨ha, hc⟩ | ⟨x, ha, ⟨-, hc⟩ | ⟨hx, hc | ⟨hhit, hc⟩ | hc⟩⟩ := lb_classify_cases r L a rd
  · exact .inl (by simp [ha, hc, LBReg.sample])
  · simp [LBReg.writeSampled, hc, hready] at hwrite
  · exact .inr ⟨x, ha, hx, .inl (by simp [ha, hc, LBReg.sample])⟩
  · have hvalid : (r.fill rd).valid = true := by
      simp only [LBReg.hit, lb_postFill_eq_fill, Bool.and_eq_true] at hhit
      exact hhit.1
    exact .inr ⟨x, ha, hx, .inr (.inl (by simp [ha, hc, hvalid, LBReg.sample]))⟩
  · exact .inr ⟨x, ha, hx, .inr (.inr (by simp [ha, hc, LBReg.sample]))⟩

end

/-- A line buffer that raises nothing passes the status up unchanged, so both its links sample at the same edges. -/
theorem lb_up_status (r : LBReg) (rd : Resp) (h : r.idleResponse rd = false) : (r.up rd).status = rd.status := by
  unfold LBReg.up
  cases hs : r.st with
  | transparent => rfl
  | fetching => simp only; split <;> simp_all
  | _ =>
    obtain rfl : rd = idleResp := by simpa [LBReg.idleResponse, hs] using h
    rfl

/-! The write buffer (R321 to R329), a state at a time: the register contents that `wbInvariant` admits. -/

namespace WBReg

/-- Nothing is buffered. -/
def rest : WBReg := { st := .transparent, bap := none, bdata := none, held := none }

/-- The write `a` is in its first cycle downstream. -/
def first (a : AP) : WBReg := { st := .bufferedWriteFirst, bap := some a, bdata := none, held := none }

/-- The write `a` with data `d` is in a later cycle downstream, and `held` waits for its end. -/
def async (a : AP) (d : BusValue) (held : Option AP) : WBReg :=
  { st := .bufferedWriteAsync, bap := some a, bdata := some d, held := held }

/-- The cycle after a buffered write, in which `h` waits for the injected idle. -/
def injected (h : AP) : WBReg := { st := .idleInjectionDone, bap := none, bdata := none, held := some h }

end WBReg

/-- The table of R321 (R46): the contents of a write buffer in each of its states. -/
theorem wbInvariant_iff (w : WBReg) :
    wbInvariant w = true ↔
      w = .rest ∨ (∃ a, compatible a = true ∧ w = .first a) ∨
        (∃ a d held, compatible a = true ∧ (∀ h, held = some h → isXfer h = true) ∧ w = .async a d held) ∨
        ∃ h, isXfer h = true ∧ w = .injected h := by
  constructor
  · obtain ⟨st, bap, bdata, held⟩ := w
    intro h
    unfold wbInvariant at h
    split at h
    next hst hbap hbdata hheld => cases hst; cases hbap; cases hbdata; cases hheld; exact .inl rfl
    next a hst hbap hbdata hheld =>
      cases hst; cases hbap; cases hbdata; cases hheld; exact .inr (.inl ⟨a, h, rfl⟩)
    next a d hst hbap hbdata hheld =>
      cases hst; cases hbap; cases hbdata; cases hheld
      exact .inr (.inr (.inl ⟨a, d, none, h, nofun, rfl⟩))
    next a d k hst hbap hbdata hheld =>
      cases hst; cases hbap; cases hbdata; cases hheld
      obtain ⟨ha, hk⟩ := (Bool.and_eq_true_iff ..).1 h
      exact .inr (.inr (.inl ⟨a, d, some k, ha, fun _ he => Option.some.inj he ▸ hk, rfl⟩))
    next k hst hbap hbdata hheld =>
      cases hst; cases hbap; cases hbdata; cases hheld; exact .inr (.inr (.inr ⟨k, h, rfl⟩))
    next => cases h
  · rintro (rfl | ⟨a, ha, rfl⟩ | ⟨a, d, held, ha, hheld, rfl⟩ | ⟨h, hh, rfl⟩)
    · rfl
    · exact ha
    · cases held with
      | none => exact ha
      | some k => exact (Bool.and_eq_true_iff ..).2 ⟨ha, hheld k rfl⟩
    · exact hh

/-- An address phase as a register keeps it: only a transfer is worth holding. -/
def keptAP (a : AP) : Option AP := if isXfer a then some a else none

@[simp] theorem optXfer_keptAP (a : AP) : optXfer (keptAP a) = xferOf a := by
  cases h : xferOf a <;> simp [keptAP, isXfer, optXfer, h]

theorem isXfer_of_keptAP (a h : AP) (hk : keptAP a = some h) : isXfer h = true := by
  unfold keptAP at hk
  split at hk
  · cases hk; assumption
  · cases hk

section
variable (a h : AP) (d : BusValue) (held : Option AP) (u : M2S) (rd : Resp)

/-! The edge (R328, R329). -/

theorem wb_rest_next : WBReg.rest.next u rd = if hready rd && compatible u.ap then .first u.ap else .rest := rfl

theorem wb_first_next :
    (WBReg.first a).next u rd =
      match rd.status with
      | .success => if compatible u.ap then .first u.ap else .rest
      | .pending => .async a u.dp (keptAP u.ap)
      | .error1 => .async a u.dp (keptAP u.ap)
      | .error2 => .first a := rfl

theorem wb_async_next :
    (WBReg.async a d held).next u rd =
      match rd.status with
      | .success => WBReg.drained (held.getD u.ap) true
      | .error2 => WBReg.drained (held.getD u.ap) false
      | .pending => .async a d (held.or (keptAP u.ap))
      | .error1 => .async a d (held.or (keptAP u.ap)) := by
  cases held with
  | none =>
    cases hs : rd.status <;> cases hx : isXfer u.ap <;>
      simp [WBReg.next, WBReg.async, WBReg.candidate, keptAP, hs, hx]
  | some h => cases hs : rd.status <;> simp [WBReg.next, WBReg.async, WBReg.candidate, hs]

theorem wb_injected_next :
    (WBReg.injected h).next u rd =
      if hready rd then (if compatible h then .first h else .rest) else .injected h := rfl

theorem wb_drained_eq (passed : Bool) :
    WBReg.drained a passed =
      if passed && compatible a then .first a else if isXfer a then .injected a else .rest := rfl

end

/-- The invariants of R46 are kept by every edge, whatever the agents do. -/
theorem wbInvariant_next (w : WBReg) (u : M2S) (rd : Resp) (h : wbInvariant w = true) :
    wbInvariant (w.next u rd) = true := by
  have hfirst : ∀ a, compatible a = true → wbInvariant (.first a) = true := fun a ha => ha
  have hdrained : ∀ a p, wbInvariant (WBReg.drained a p) = true := by
    intro a p
    rw [wb_drained_eq]
    split
    next hc => simp only [Bool.and_eq_true] at hc; exact hfirst a hc.2
    next => split; exacts [by assumption, rfl]
  have hasync : ∀ a d held, compatible a = true → (∀ k, held = some k → isXfer k = true) →
      wbInvariant (.async a d held) = true := fun a d held ha hk =>
    (wbInvariant_iff _).2 (.inr (.inr (.inl ⟨a, d, held, ha, hk, rfl⟩)))
  obtain rfl | ⟨a, ha, rfl⟩ | ⟨a, d, held, ha, hheld, rfl⟩ | ⟨k, hk, rfl⟩ := (wbInvariant_iff w).1 h
  · rw [wb_rest_next]
    split
    next hc => simp only [Bool.and_eq_true] at hc; exact hfirst _ hc.2
    next => rfl
  · rw [wb_first_next]
    cases rd.status with
    | success => dsimp only; split; exacts [hfirst _ (by assumption), rfl]
    | pending => exact hasync _ _ _ ha (isXfer_of_keptAP u.ap)
    | error1 => exact hasync _ _ _ ha (isXfer_of_keptAP u.ap)
    | error2 => exact ha
  · rw [wb_async_next]
    have hor : ∀ k, held.or (keptAP u.ap) = some k → isXfer k = true := by
      intro k hk
      obtain hk | ⟨-, hk⟩ := Option.or_eq_some_iff.1 hk
      exacts [hheld k hk, isXfer_of_keptAP _ _ hk]
    cases rd.status with
    | success => exact hdrained _ _
    | pending => exact hasync _ _ _ ha hor
    | error1 => exact hasync _ _ _ ha hor
    | error2 => exact hdrained _ _
  · rw [wb_injected_next]
    split
    · split; exacts [hfirst _ (by assumption), rfl]
    · exact hk

/-- A write buffer holds what it held, or what its upstream drives (R328). -/
theorem wb_next_held (w : WBReg) (u : M2S) (rd : Resp) (h : AP) (hh : (w.next u rd).held = some h) :
    w.held = some h ∨ h = u.ap := by
  unfold WBReg.next WBReg.drained WBReg.candidate at hh
  grind

/-- The transfer a write buffer passes down is its upstream's or the one it holds (R326). -/
theorem xferOf_wb_down (w : WBReg) (u : M2S) (rd : Resp) (x : Xfer) (h : xferOf (w.down u rd).ap = some x) :
    xferOf u.ap = some x ∨ optXfer w.held = some x := by
  rw [xferOf_eq_some] at h
  simp only [xferOf_eq_some, optXfer]
  simp only [WBReg.down, WBReg.downCtl, WBReg.candidate] at h
  grind [xferOf_eq_some]

/-! The transfers on the links of a chain. -/

/-- A property of the transfer of an address phase, if it is one. -/
def APAll (P : Xfer → Prop) (a : AP) : Prop := ∀ x, xferOf a = some x → P x

/-- A property of transfers that every adapter of a chain passes on: a line buffer's fetch has it if the transfer that
missed does. -/
def FetchKeeps (P : Xfer → Prop) (as : List Adapter) : Prop :=
  ∀ L e, Adapter.lb L e ∈ as → ∀ x, P x → P (fetchXfer L x)

section
variable (P : Xfer → Prop) (q : SlaveRegs)

theorem apAll_lb_down (r : LBReg) (L : Nat) (a : AP) (rd : Resp) (hfetch : ∀ x, P x → P (fetchXfer L x))
    (ha : APAll P a) : APAll P (r.down L a rd).ap := by
  intro y hy
  rw [xferOf_lb_down] at hy
  split at hy
  · cases hy
  · cases hy
  · exact ha y hy
  · exact ha y hy
  · obtain ⟨x, hx, rfl⟩ := Option.map_eq_some_iff.1 hy
    exact hfetch x (ha x hx)

theorem apAll_adapterDown (a : Adapter) (as : List Adapter) (u : M2S) (rd : Resp) (hfetch : FetchKeeps P (a :: as))
    (hheld : .wb ∈ a :: as → ∀ x, optXfer q.wb.held = some x → P x) (hu : APAll P u.ap) :
    APAll P (adapterDown q a u rd).ap := by
  cases a with
  | lb L e => exact apAll_lb_down P q.lb L u.ap rd (hfetch L e List.mem_cons_self) hu
  | wb =>
    intro y hy
    obtain hy | hy := xferOf_wb_down q.wb u rd y hy
    exacts [hu y hy, hheld List.mem_cons_self y hy]

/-- What holds of the transfer at the top of a chain and of the one its write buffer holds, and of every fetch, holds at
every adapter and on every link. -/
theorem apAll_chain (as : List Adapter) (u : M2S) (r : Resp) (hfetch : FetchKeeps P as)
    (hheld : .wb ∈ as → ∀ x, optXfer q.wb.held = some x → P x) (hu : APAll P u.ap) :
    (∀ p ∈ chainPorts q as u r, APAll P p.2.1.ap) ∧ ∀ w ∈ chainWires q as u r, APAll P w.ap := by
  induction as generalizing u with
  | nil => simpa [chainPorts, chainWires] using hu
  | cons a as ih =>
    have hdown := apAll_adapterDown P q a as u (chainUp q as r) hfetch hheld hu
    obtain ⟨hports, hwires⟩ := ih (adapterDown q a u (chainUp q as r))
      (fun L e hm => hfetch L e (List.mem_cons_of_mem a hm)) (fun hm => hheld (List.mem_cons_of_mem a hm)) hdown
    simp only [chainPorts, chainWires, List.mem_cons, forall_eq_or_imp]
    exact ⟨⟨hu, hports⟩, hu, hwires⟩

end

/-! The adapters of a chain that has a model (R10, R11, R290). -/

/-- The sizes a line can have (R10). -/
def LineSize (w16 : Bool) (L : Nat) : Prop := L = 2 ∨ L = 4 ∨ L = 8 ∨ (L = 16 ∧ w16 = true)

/-- A test that refuses line buffers alone says that a chain has none; and one that refuses write buffers alone. -/
theorem all_eq_not_hasLineBuffer (f : Adapter → Bool) (hlb : ∀ L e, f (.lb L e) = false) (hwb : f .wb = true)
    (as : List Adapter) : as.all f = !hasLineBuffer as := by
  induction as with
  | nil => rfl
  | cons a as ih => cases a <;> simp [hasLineBuffer, hlb, hwb, ih]

theorem all_eq_not_hasWriteBuffer (f : Adapter → Bool) (hlb : ∀ L e, f (.lb L e) = true) (hwb : f .wb = false)
    (as : List Adapter) : as.all f = !hasWriteBuffer as := by
  induction as with
  | nil => rfl
  | cons a as ih => cases a <;> simp [hasWriteBuffer, hlb, hwb, ih]

theorem validChain_lb (w16 : Bool) (w L : Nat) (e : Bool) (as : List Adapter) :
    validChain w16 w (.lb L e :: as) = true ↔
      LineSize w16 L ∧ w ≤ L ∧ validChain w16 L as = true ∧ hasLineBuffer as = false := by
  rw [validChain, all_eq_not_hasLineBuffer _ (fun _ _ => rfl) rfl]
  simp [LineSize, and_assoc, or_assoc]

theorem validChain_wb (w16 : Bool) (w : Nat) (as : List Adapter) :
    validChain w16 w (.wb :: as) = true ↔ validChain w16 w as = true ∧ hasWriteBuffer as = false := by
  rw [validChain, all_eq_not_hasWriteBuffer _ (fun _ _ => rfl) rfl]
  simp

theorem hasLineBuffer_of_mem (L : Nat) (e : Bool) (as : List Adapter) (h : .lb L e ∈ as) :
    hasLineBuffer as = true := by
  induction as with
  | nil => cases h
  | cons a as ih => cases a <;> simp_all [hasLineBuffer]

/-- Every line of a chain has a size of R10, no less than the link above; and there is one line buffer at most. -/
theorem validChain_mem (w16 : Bool) (w L : Nat) (e : Bool) (as : List Adapter) (hvalid : validChain w16 w as = true)
    (hmem : .lb L e ∈ as) : LineSize w16 L ∧ w ≤ L ∧ ∀ K f, .lb K f ∈ as → K = L := by
  induction as generalizing w with
  | nil => cases hmem
  | cons a as ih =>
    cases a with
    | lb M g =>
      obtain ⟨hsize, hw, -, hone⟩ := (validChain_lb w16 w M g as).1 hvalid
      have honly : ∀ K f, .lb K f ∈ Adapter.lb M g :: as → K = M := by
        intro K f hK
        obtain hK | hK := List.mem_cons.1 hK
        · cases hK; rfl
        · rw [hasLineBuffer_of_mem K f as hK] at hone; cases hone
      obtain rfl := honly L e hmem
      exact ⟨hsize, hw, honly⟩
    | wb =>
      obtain ⟨hvalid, -⟩ := (validChain_wb w16 w as).1 hvalid
      obtain ⟨hsize, hw, honly⟩ := ih w hvalid (by simpa using hmem)
      exact ⟨hsize, hw, fun K f hK => honly K f (by simpa using hK)⟩

/-! The registers of a chain's adapters at the edge. -/

/-- An adapter's registers at the edge are what its port in the chain makes of the old ones. -/
def AdapterTaken (old new : SlaveRegs) (en : Option Bool) (p : Adapter × M2S × Resp) : Prop :=
  match p with
  | (.lb L _, u, rd) => new.lb = old.lb.next L u.ap rd en
  | (.wb, u, rd) => new.wb = old.wb.next u rd

section
variable (q old : SlaveRegs) (en : Option Bool) (r : Resp)

theorem adaptersNext_lb_of_none (as : List Adapter) (u : M2S) (acc : SlaveRegs) (h : hasLineBuffer as = false) :
    (adaptersNext old en (chainPorts q as u r) acc).lb = acc.lb := by
  induction as generalizing u acc with
  | nil => rfl
  | cons a as ih =>
    cases a with
    | lb L e => simp [hasLineBuffer] at h
    | wb => exact ih _ _ h

theorem adaptersNext_wb_of_none (as : List Adapter) (u : M2S) (acc : SlaveRegs) (h : hasWriteBuffer as = false) :
    (adaptersNext old en (chainPorts q as u r) acc).wb = acc.wb := by
  induction as generalizing u acc with
  | nil => rfl
  | cons a as ih =>
    cases a with
    | lb L e => exact ih _ _ h
    | wb => simp [hasWriteBuffer] at h

/-- In a chain with one adapter of each kind at most (R11), each has its own edge. -/
theorem adapterTaken_of_mem (w16 : Bool) (w : Nat) (as : List Adapter) (u : M2S) (acc : SlaveRegs)
    (hvalid : validChain w16 w as = true) :
    ∀ p ∈ chainPorts q as u r, AdapterTaken old (adaptersNext old en (chainPorts q as u r) acc) en p := by
  induction as generalizing w u acc with
  | nil => simp [chainPorts]
  | cons a as ih =>
    simp only [chainPorts, List.mem_cons, forall_eq_or_imp]
    cases a with
    | lb L e =>
      obtain ⟨-, -, hvalid, hone⟩ := (validChain_lb w16 w L e as).1 hvalid
      exact ⟨adaptersNext_lb_of_none q old en r as _ _ hone, ih L _ _ hvalid⟩
    | wb =>
      obtain ⟨hvalid, hone⟩ := (validChain_wb w16 w as).1 hvalid
      exact ⟨adaptersNext_wb_of_none q old en r as _ _ hone, ih w _ _ hvalid⟩

end

section
variable (old : SlaveRegs) (en : Option Bool)

/-- Whatever the chain, a line buffer's registers at the edge are the old ones or come from one of its ports. -/
theorem adaptersNext_lb_cases (ps : List (Adapter × M2S × Resp)) (acc : SlaveRegs) :
    (adaptersNext old en ps acc).lb = acc.lb ∨
      ∃ L e u rd, (.lb L e, u, rd) ∈ ps ∧ (adaptersNext old en ps acc).lb = old.lb.next L u.ap rd en := by
  induction ps generalizing acc with
  | nil => exact .inl rfl
  | cons p ps ih =>
    obtain ⟨a, u, rd⟩ := p
    cases a with
    | lb L e =>
      obtain h | ⟨K, f, v, rd', hmem, h⟩ := ih { acc with lb := old.lb.next L u.ap rd en }
      · exact .inr ⟨L, e, u, rd, List.mem_cons_self, h⟩
      · exact .inr ⟨K, f, v, rd', List.mem_cons_of_mem _ hmem, h⟩
    | wb =>
      obtain h | ⟨K, f, v, rd', hmem, h⟩ := ih { acc with wb := old.wb.next u rd }
      · exact .inl h
      · exact .inr ⟨K, f, v, rd', List.mem_cons_of_mem _ hmem, h⟩

theorem adaptersNext_wb_cases (ps : List (Adapter × M2S × Resp)) (acc : SlaveRegs) :
    (adaptersNext old en ps acc).wb = acc.wb ∨
      ∃ u rd, (.wb, u, rd) ∈ ps ∧ (adaptersNext old en ps acc).wb = old.wb.next u rd := by
  induction ps generalizing acc with
  | nil => exact .inl rfl
  | cons p ps ih =>
    obtain ⟨a, u, rd⟩ := p
    cases a with
    | lb L e =>
      obtain h | ⟨v, rd', hmem, h⟩ := ih { acc with lb := old.lb.next L u.ap rd en }
      · exact .inl h
      · exact .inr ⟨v, rd', List.mem_cons_of_mem _ hmem, h⟩
    | wb =>
      obtain h | ⟨v, rd', hmem, h⟩ := ih { acc with wb := old.wb.next u rd }
      · exact .inr ⟨u, rd, List.mem_cons_self, h⟩
      · exact .inr ⟨v, rd', List.mem_cons_of_mem _ hmem, h⟩

end

/-- An adapter of a port is one of the chain. -/
theorem mem_of_chainPorts (q : SlaveRegs) (as : List Adapter) (u : M2S) (r : Resp) (p : Adapter × M2S × Resp)
    (h : p ∈ chainPorts q as u r) : p.1 ∈ as := by
  induction as generalizing u with
  | nil => cases h
  | cons a as ih =>
    obtain rfl | h := List.mem_cons.1 h
    · exact List.mem_cons_self
    · exact List.mem_cons_of_mem a (ih _ h)

end Sys2Proof.Machine
end

section
/-! Settles O17 and O11. A cycle that does not stop lets an output stage forward only what passed the checks of R245, so
every transfer that reaches a line buffer lies inside one line (R294): that, and the table of R321, is what the
adapters' registers need. At reset every register is idle. -/

namespace Sys2Proof.Machine

/-! A cycle that does not stop. -/

/-- An adapter in a port of the chain raises nothing. -/
structure PortQuiet (q : SlaveRegs) (p : Adapter × M2S × Resp) : Prop where
  fatal : adapterFatal q p = none
  idleResponse : adapterIdleResponse q p = false
  widthMismatch : adapterWidthMismatch q p = false
  errorSequence : adapterErrorSequence q p = false

theorem adapterViolation_none (c : Cycle) (v : ViolationName) (bad : SlaveRegs → Adapter × M2S × Resp → Bool)
    (n : Nat) :
    c.adapterViolation v bad n = none ↔ ∀ p ∈ c.ports n, bad (c.st.slave n) p = false := by
  simp [Cycle.adapterViolation, List.findSome?_eq_none_iff, violationIf_none]

theorem lineFault_none (c : Cycle) (n : Nat) :
    c.lineFault n = none ↔ ∀ p ∈ c.ports n, adapterFatal (c.st.slave n) p = none := by
  simp [Cycle.lineFault, List.findSome?_eq_none_iff]

theorem portQuiet_of_no_stop (c : Cycle) (n : Nat) (hstop : c.stop = none) (hn : n < c.st.cfg.ns) :
    ∀ p ∈ c.ports n, PortQuiet (c.st.slave n) p := by
  intro p hp
  obtain ⟨hline, -, -, hidle, hwidth, herror, -, -⟩ := (stop_none c hstop).2 n hn
  exact ⟨(lineFault_none c n).1 hline p hp, (adapterViolation_none ..).1 hidle p hp,
    (adapterViolation_none ..).1 hwidth p hp, (adapterViolation_none ..).1 herror p hp⟩

theorem writeSampled_of_quiet (q : SlaveRegs) (L : Nat) (e : Bool) (u : M2S) (rd : Resp)
    (h : PortQuiet q (.lb L e, u, rd)) : q.lb.writeSampled L u.ap rd = false := by
  simpa [adapterFatal] using h.fatal

/-! The transfers an output stage forwards have passed the checks of R245. -/

theorem master_of_not_lt (c : Cfg) (m : Nat) (h : ¬m < c.nm) : c.master m = .absent := by
  have hlen : c.masters.length ≤ m := Nat.le_of_not_lt h
  simp [Cfg.master, List.getD_eq_getElem?_getD, List.getElem?_eq_none hlen]

/-- Only a master of MASTERS has a target. -/
theorem lt_nm_of_target (c : Cycle) (m : Nat) (x : Target) (h : c.target m = some x) : m < c.st.cfg.nm := by
  by_contra hm
  rw [Cycle.target, master_of_not_lt _ _ hm] at h
  unfold targetOf at h
  split at h <;> simp [decodeAddr, MasterCfg.absent] at h

/-- A committed candidate is checked in this cycle (R245), or is held and was checked before (R247 (2)). -/
theorem cand_checked (c : Cycle) (m : Nat) (x : Xfer) (hstop : c.stop = none) (hm : m < c.st.cfg.nm)
    (hheld : heldPasses c.st.cfg m (c.st.master m).is.held = true) (hcommitted : c.committed m = true)
    (hx : xferOf (c.cand m) = some x) : checkAll c.st.cfg m x = none := by
  cases h : (c.st.master m).is.held with
  | none =>
    obtain ⟨hfault, -⟩ := (stop_none c hstop).1 m hm
    simpa [Cycle.stageFault, ISReg.fault, h, hcommitted, hx] using hfault
  | some a =>
    rw [cand_of_held c m a h, xferOf_ready] at hx
    simpa [heldPasses, h, hx] using hheld

theorem stageAP_checked (c : Cycle) (n : Nat) (x : Xfer) (hstop : c.stop = none) (hroute : RouteInvariant c.st)
    (hx : xferOf (c.stageAP n) = some x) :
    ∃ m < c.st.cfg.nm, decodeAddr (c.st.cfg.master m) x.addr = some (.slave n) ∧ checkAll c.st.cfg m x = none := by
  obtain ⟨m, -, htarget, hcommitted, hap⟩ | hidle := stageAP_cases c n
  · have hm := lt_nm_of_target c m _ htarget
    have hcand : xferOf (c.cand m) = some x := by
      rw [xferOf_eq_some] at hx ⊢
      rwa [hap] at hx
    obtain ⟨-, hmasters, -⟩ := hroute
    obtain ⟨-, hheld, -⟩ := hmasters m hm
    refine ⟨m, hm, ?_, cand_checked c m x hstop hm hheld hcommitted hcand⟩
    simpa [Cycle.target, targetOf, hcand] using htarget
  · rw [hidle] at hx; cases hx

/-- What the checks of R121 say of a transfer that passes them. -/
theorem checkXfer_none (w16 : Bool) (link : Nat) (x : Xfer) (h : checkXfer w16 link x = none) :
    sizeCodeExists w16 x.size = true ∧ sizeBytes x.size ≤ link ∧ x.addr.toNat % sizeBytes x.size = 0 := by
  unfold checkXfer at h
  simp only [sizeCodeExists, Bool.or_eq_true, Bool.and_eq_true, decide_eq_true_eq]
  grind

theorem checkAll_none (c : Cfg) (m : Nat) (x : Xfer) (h : checkAll c m x = none) :
    checkXfer c.w16 (c.master m).linkBytes x = none ∧
      checkTarget (fun s => (c.slave s).linkBytes) (decodeAddr (c.master m) x.addr) x = none := by
  unfold checkAll at h
  split at h
  · cases h
  · exact ⟨‹_›, h⟩

theorem sizeCodeExists_of_checkAll (c : Cfg) (m : Nat) (x : Xfer) (h : checkAll c m x = none) :
    sizeCodeExists c.w16 x.size = true := (checkXfer_none _ _ _ (checkAll_none c m x h).1).1

/-- What reaches an output stage is aligned and fits the link below it. -/
theorem aligned_of_checkAll (c : Cfg) (m n : Nat) (x : Xfer) (h : checkAll c m x = none)
    (htarget : decodeAddr (c.master m) x.addr = some (.slave n)) :
    x.addr.toNat % sizeBytes x.size = 0 ∧ sizeBytes x.size ≤ (c.slave n).linkBytes := by
  obtain ⟨hxfer, hbelow⟩ := checkAll_none c m x h
  refine ⟨(checkXfer_none _ _ _ hxfer).2.2, ?_⟩
  simpa [htarget, checkTarget] using hbelow

/-! Lines (R74, R294). -/

theorem lineSize_eq_pow (w16 : Bool) (L : Nat) (h : LineSize w16 L) : ∃ k, L = 2 ^ k := by
  obtain rfl | rfl | rfl | ⟨rfl, -⟩ := h
  exacts [⟨1, rfl⟩, ⟨2, rfl⟩, ⟨3, rfl⟩, ⟨4, rfl⟩]

theorem lineSizeCode_bytes (w16 : Bool) (L : Nat) (h : LineSize w16 L) : sizeBytes (lineSizeCode L) = L := by
  obtain rfl | rfl | rfl | ⟨rfl, -⟩ := h <;> rfl

theorem lineSizeCode_exists (w16 : Bool) (L : Nat) (h : LineSize w16 L) :
    sizeCodeExists w16 (lineSizeCode L) = true := by
  obtain rfl | rfl | rfl | ⟨rfl, rfl⟩ := h <;> rfl

/-- An aligned block no larger than a line lies inside one. -/
theorem mod_add_le_of_dvd (a d L : Nat) (hL : d ∣ L) (ha : d ∣ a) (hpos : 0 < L) : a % L + d ≤ L := by
  obtain ⟨q, rfl⟩ := hL
  obtain ⟨b, rfl⟩ := ha
  rw [Nat.mul_mod_mul_left]
  have hq : 0 < q := Nat.pos_of_mul_pos_left hpos
  calc d * (b % q) + d = d * (b % q + 1) := by ring
    _ ≤ d * q := Nat.mul_le_mul_left d (Nat.mod_lt b hq)

theorem fitsLine_of_aligned (w16 : Bool) (L : Nat) (x : Xfer) (hL : LineSize w16 L)
    (haligned : x.addr.toNat % sizeBytes x.size = 0) (hle : sizeBytes x.size ≤ L) : fitsLine L x = true := by
  obtain ⟨k, rfl⟩ := lineSize_eq_pow w16 L hL
  have hdvd : sizeBytes x.size ∣ 2 ^ k := Nat.pow_dvd_pow 2 ((Nat.pow_le_pow_iff_right (by decide)).1 hle)
  exact decide_eq_true (mod_add_le_of_dvd _ _ _ hdvd (Nat.dvd_of_mod_eq_zero haligned) (Nat.two_pow_pos k))

theorem alignDown_mod (a : Addr) (L : Nat) : (alignDown a L).toNat % L = 0 := by
  have hlt : a.toNat - a.toNat % L < 2 ^ 32 := Nat.lt_of_le_of_lt (Nat.sub_le _ _) a.isLt
  rw [alignDown, BitVec.toNat_ofNat, Nat.mod_eq_of_lt hlt]
  exact Nat.sub_mod_eq_zero_of_mod_eq (Nat.mod_mod _ _).symm

/-- A fetch is of a whole line (R296). -/
theorem fitsLine_fetch (w16 : Bool) (L : Nat) (x : Xfer) (hL : LineSize w16 L) : fitsLine L (fetchXfer L x) = true := by
  refine decide_eq_true ?_
  simp [fetchXfer, lineOffset, alignDown_mod, lineSizeCode_bytes w16 L hL]

/-! A line buffer's registers (R45, R74). -/

theorem lbInvariant_iff (L : Nat) (r : LBReg) :
    lbInvariant L r = true ↔
      (r.valid = true → r.laddr.toNat % L = 0 ∧ r.line.length = L) ∧
        (r.st = .fetching → r.faddr.toNat % L = 0 ∧ r.off + sizeBytes r.rsize ≤ L) ∧
        (r.st = .localHit → r.line.length = L ∧ r.off + sizeBytes r.rsize ≤ L) := by
  cases hv : r.valid <;> cases hs : r.st <;> simp [lbInvariant, hv, hs]

/-- A fill puts a line of `L` bytes at a multiple of `L`: a response of another width was stopped (R297). -/
theorem lb_fill_line (L : Nat) (r : LBReg) (rd : Resp) (hinv : lbInvariant L r = true)
    (hwidth : r.widthMismatch L rd = false) (hvalid : (r.fill rd).valid = true) :
    (r.fill rd).laddr.toNat % L = 0 ∧ (r.fill rd).line.length = L := by
  obtain ⟨hline, hfetching, -⟩ := (lbInvariant_iff L r).1 hinv
  unfold LBReg.fill at hvalid ⊢
  split
  next h =>
    refine ⟨(hfetching h.1).1, ?_⟩
    cases hd : rd.data with
    | absent => simp [LBReg.widthMismatch, h.1, h.2, hd, widthOf] at hwidth
    | bytes b => simpa [LBReg.widthMismatch, h.1, h.2, hd, widthOf, carriedBytes] using hwidth
  next h =>
    rw [if_neg h] at hvalid
    exact hline hvalid

theorem lbInvariant_next (L : Nat) (r : LBReg) (a : AP) (rd : Resp) (en : Option Bool)
    (hinv : lbInvariant L r = true) (hwidth : r.widthMismatch L rd = false) (hwrite : r.writeSampled L a rd = false)
    (hfits : APAll (fun x => fitsLine L x = true) a) : lbInvariant L (r.next L a rd en) = true := by
  have hline := lb_fill_line L r rd hinv hwidth
  rw [lbInvariant_iff]
  refine ⟨fun hvalid => ?_, ?_⟩
  · rw [lb_next_laddr, lb_next_line]
    exact hline (lb_valid_of_next_valid r L a rd en hvalid)
  · cases hready : hready (r.up rd) with
    | true =>
      obtain ⟨-, hst, -⟩ | ⟨x, hx, -, ⟨hst, -⟩ | ⟨hst, hsize, hoff, hvalid, -⟩ | ⟨hst, hsize, hoff, haddr, -⟩⟩ :=
        lb_next_sampled r L a rd en hready hwrite
      · simp [hst]
      · simp [hst]
      · have hx := hfits x hx
        simp only [fitsLine, decide_eq_true_eq] at hx
        simp [hst, hsize, hoff, lb_next_line, (hline hvalid).2, hx]
      · have hx := hfits x hx
        simp only [fitsLine, decide_eq_true_eq] at hx
        simp [hst, hsize, hoff, haddr, alignDown_mod, hx]
    | false =>
      obtain ⟨hnext, hst⟩ := lb_next_of_waiting r L a rd en hready
      rw [lbInvariant_iff] at hinv
      simpa [hnext] using hinv.2

/-! The adapters of a slave (R45, R46). -/

theorem chainLBInvariant_iff (q : SlaveRegs) (as : List Adapter) :
    chainLBInvariant q as = true ↔
      ∀ L e, .lb L e ∈ as → lbInvariant L q.lb = true ∧ heldFits L q.wb = true := by
  induction as with
  | nil => simp [chainLBInvariant]
  | cons a as ih =>
    cases a with
    | lb K f => simp [chainLBInvariant, ih]; grind
    | wb => simp [chainLBInvariant, ih]

theorem heldFits_iff (L : Nat) (w : WBReg) :
    heldFits L w = true ↔ ∀ x, optXfer w.held = some x → fitsLine L x = true := by
  unfold heldFits optXfer
  cases w.held with
  | none => simp
  | some a => cases h : xferOf a <;> simp [h]

theorem nextSlave_lb_cases (c : Cycle) (n : Nat) :
    (c.nextSlave n).lb = (c.st.slave n).lb ∨
      ∃ L e u rd, (.lb L e, u, rd) ∈ c.ports n ∧
        (c.nextSlave n).lb = (c.st.slave n).lb.next L u.ap rd (c.lbEn n) :=
  adaptersNext_lb_cases (c.st.slave n) (c.lbEn n) (c.ports n) _

theorem nextSlave_wb_cases (c : Cycle) (n : Nat) :
    (c.nextSlave n).wb = (c.st.slave n).wb ∨
      ∃ u rd, (.wb, u, rd) ∈ c.ports n ∧ (c.nextSlave n).wb = (c.st.slave n).wb.next u rd :=
  adaptersNext_wb_cases (c.st.slave n) (c.lbEn n) (c.ports n) _

theorem validChain_of_validCfg (c : Cfg) (n : Nat) (hvalid : validCfg c = true) (hn : n < c.ns) :
    validChain c.w16 (c.slave n).linkBytes (c.slave n).chain = true := by
  obtain ⟨-, -, -, hslaves⟩ := (validCfg_iff c).1 hvalid
  obtain ⟨-, -, hchain⟩ := (validSlave_iff c n).1 (hslaves n hn)
  exact hchain

section
variable (c : Cycle) (n : Nat) (hstop : c.stop = none) (hvalid : validCfg c.st.cfg = true) (hn : n < c.st.cfg.ns)
  (hroute : RouteInvariant c.st)
include hstop hvalid hn hroute

/-- A transfer that an output stage forwards lies inside one line of each line buffer below it (R294). -/
theorem fitsLine_stageAP (L : Nat) (e : Bool) (hmem : .lb L e ∈ (c.st.cfg.slave n).chain) :
    APAll (fun x => fitsLine L x = true) (c.stageAP n) := by
  intro x hx
  obtain ⟨m, -, htarget, hcheck⟩ := stageAP_checked c n x hstop hroute hx
  obtain ⟨haligned, hle⟩ := aligned_of_checkAll _ m n x hcheck htarget
  obtain ⟨hsize, hlink, -⟩ := validChain_mem _ _ L e _ (validChain_of_validCfg _ n hvalid hn) hmem
  exact fitsLine_of_aligned _ L x hsize haligned (hle.trans hlink)

/-- So does every transfer that reaches an adapter of the chain. -/
theorem fitsLine_ports (L : Nat) (e : Bool) (hmem : .lb L e ∈ (c.st.cfg.slave n).chain)
    (hheld : heldFits L (c.st.slave n).wb = true) :
    ∀ p ∈ c.ports n, APAll (fun x => fitsLine L x = true) p.2.1.ap := by
  obtain ⟨hsize, -, hone⟩ := validChain_mem _ _ L e _ (validChain_of_validCfg _ n hvalid hn) hmem
  refine (apAll_chain _ _ _ _ _ ?_ (fun _ => (heldFits_iff L _).1 hheld)
    (fitsLine_stageAP c n hstop hvalid hn hroute L e hmem)).1
  rintro K f hK x -
  obtain rfl := hone K f hK
  exact fitsLine_fetch _ _ x hsize

/-- The adapters' invariants at the edge of a cycle that does not stop. -/
theorem adapterInvariant_nextSlave (hwb : wbInvariant (c.st.slave n).wb = true)
    (hlb : chainLBInvariant (c.st.slave n) (c.st.cfg.slave n).chain = true) :
    wbInvariant (c.nextSlave n).wb = true ∧ chainLBInvariant (c.nextSlave n) (c.st.cfg.slave n).chain = true := by
  constructor
  · obtain h | ⟨u, rd, -, h⟩ := nextSlave_wb_cases c n
    · rwa [h]
    · rw [h]; exact wbInvariant_next _ u rd hwb
  rw [chainLBInvariant_iff] at hlb ⊢
  intro L e hmem
  obtain ⟨hline, hheld⟩ := hlb L e hmem
  have hports := fitsLine_ports c n hstop hvalid hn hroute L e hmem hheld
  constructor
  · obtain h | ⟨K, f, u, rd, hport, h⟩ := nextSlave_lb_cases c n
    · rwa [h]
    · obtain ⟨-, -, hone⟩ := validChain_mem _ _ L e _ (validChain_of_validCfg _ n hvalid hn) hmem
      obtain rfl := hone K f (mem_of_chainPorts _ _ _ _ _ hport)
      have hquiet := portQuiet_of_no_stop c n hstop hn _ hport
      rw [h]
      exact lbInvariant_next _ _ _ _ _ hline hquiet.widthMismatch (writeSampled_of_quiet _ _ _ _ _ hquiet)
        (hports _ hport)
  · rw [heldFits_iff] at hheld ⊢
    intro x hx
    obtain h | ⟨u, rd, hport, h⟩ := nextSlave_wb_cases c n
    · rw [h] at hx; exact hheld x hx
    · rw [h] at hx
      cases hh : ((c.st.slave n).wb.next u rd).held with
      | none => rw [hh] at hx; cases hx
      | some a =>
        rw [hh] at hx
        obtain hold | rfl := wb_next_held _ u rd a hh
        · exact hheld x (by rw [hold]; exact hx)
        · exact hports _ hport x hx

end

/-! Reset (R431). -/

/-- At reset the adapters hold nothing. -/
theorem chainLBReset_st (as : List Adapter) : (chainLBReset as).st = .idle ∧ (chainLBReset as).valid = false := by
  induction as with
  | nil => exact ⟨rfl, rfl⟩
  | cons a as ih =>
    cases a with
    | lb L e => exact ⟨rfl, rfl⟩
    | wb => exact ih

theorem chainLBInvariant_reset (k : SlaveCfg) (as : List Adapter) : chainLBInvariant (.reset k) as = true := by
  rw [chainLBInvariant_iff]
  intro L e _
  obtain ⟨hst, hvalid⟩ := chainLBReset_st k.chain
  refine ⟨(lbInvariant_iff L _).2 ?_, rfl⟩
  simp [SlaveRegs.reset, hst, hvalid]

theorem adapterInvariant_resetOf (c : Cfg) (ins : List CycleInput) : AdapterInvariant (State.resetOf c ins) := by
  intro n _
  rw [resetOf_slave, resetOf_cfg]
  exact ⟨rfl, chainLBInvariant_reset _ _⟩

theorem shaped_resetOf (c : Cfg) (ins : List CycleInput) : Shaped (State.resetOf c ins) := by
  refine ⟨by simp, by simp [Cfg.ns], by simp, by simp [Cfg.ns], fun n hn => ?_⟩
  rw [resetOf_cfg] at hn ⊢
  have hlen : n < c.slaves.length := hn
  simp [Cfg.slave, hlen]

theorem routeInvariant_resetOf (c : Cfg) (ins : List CycleInput) : RouteInvariant (State.resetOf c ins) := by
  refine ⟨shaped_resetOf c ins, fun m _ => ?_, fun n _ m hm => ?_⟩
  · rw [resetOf_master]
    refine ⟨fun _ => rfl, rfl, rfl, by simp [MasterRegs.reset, ISReg.reset], rfl, fun n _ => ?_⟩
    rw [resetOf_slave]
    simp [MasterRegs.reset, ISReg.reset, SlaveRegs.reset]
  · rw [resetOf_slave] at hm
    cases hm

/-- At reset every link has an idle data phase, which is what idle adapters say of it. -/
theorem chainLinks_resetOf (c : Cfg) (ins : List CycleInput) (n : Nat) (as : List Adapter) (j : Nat) :
    chainLinks (State.resetOf c ins) n as j = true := by
  obtain ⟨hst, -⟩ := chainLBReset_st (c.slave n).chain
  induction as generalizing j with
  | nil => simp [chainLinks, resetOf_slaveMonitor, phaseSizeExists, LinkMon.reset, LinkMon.xfer]
  | cons a as ih =>
    cases a with
    | lb L e =>
      simp [chainLinks, resetOf_slaveMonitor, resetOf_slave, ih, phaseSizeExists, lbLinks, SlaveRegs.reset, hst,
        LinkMon.reset, LinkMon.xfer]
    | wb =>
      simp [chainLinks, resetOf_slaveMonitor, resetOf_slave, ih, phaseSizeExists, wbLinks, SlaveRegs.reset,
        WBReg.reset, LinkMon.reset, LinkMon.xfer]

theorem linkInvariant_resetOf (c : Cfg) (ins : List CycleInput) : LinkInvariant (State.resetOf c ins) := by
  refine ⟨fun m _ => ?_, fun n _ => ⟨chainLinks_resetOf c ins n _ 0, fun _ => ?_⟩⟩
  · simp [masterLink, resetOf_masterMonitor, resetOf_master, phaseSizeExists, MasterRegs.reset, ISReg.reset,
      LinkMon.reset, LinkMon.xfer]
  · rw [resetOf_slaveMonitor]
    exact ⟨rfl, rfl⟩

/-- Settles O11: each of the three invariants is read off the registers' reset values. -/
theorem resetMeetsInvariant : Obligations.ResetMeetsInvariant := by
  intro c ins _
  exact ⟨routeInvariant_resetOf c ins, adapterInvariant_resetOf c ins, linkInvariant_resetOf c ins⟩

/-- Settles O17, by the two things a step can be: the reset, or the edge of a cycle that does not stop. -/
theorem adapterInvariantKept : Obligations.AdapterInvariantKept := by
  intro s t hroute hadapter h
  obtain ⟨-, -, rfl⟩ | ⟨-, inp, hcycle⟩ := step_next s t h
  · exact adapterInvariant_resetOf _ _
  · obtain ⟨hvalid, hstop, rfl⟩ := runCycle_next s t inp hcycle
    intro n hn
    rw [edge_cfg] at hn
    rw [edge_slave _ n hn, edge_cfg]
    obtain ⟨hwb, hlb⟩ := hadapter n hn
    exact adapterInvariant_nextSlave _ n hstop hvalid hn hroute hwb hlb

end Sys2Proof.Machine
end

section
/-! Settles O18. Each adapter keeps what its table says of the links above and below it (R291, R321); the chain follows
by induction from the output stage down, and a master's link from what its input stage did in the cycle (R246). -/

namespace Sys2Proof.Machine

/-! One link (R32, R142). -/

theorem phaseSizeExists_iff (w16 : Bool) (k : LinkMon) :
    phaseSizeExists w16 k = true ↔ ∀ x, k.xfer = some x → sizeCodeExists w16 x.size = true := by
  unfold phaseSizeExists
  cases k.xfer <;> simp

/-- The data phase at the edge is the old one or that of the transfer on the link. -/
theorem phaseSizeExists_next (w16 : Bool) (k : LinkMon) (w : Wire) (hk : phaseSizeExists w16 k = true)
    (hw : APAll (fun x => sizeCodeExists w16 x.size = true) w.ap) : phaseSizeExists w16 (k.next w) = true := by
  rw [phaseSizeExists_iff] at hk ⊢
  intro x hx
  rw [linkMon_next_xfer] at hx
  split at hx
  exacts [hw x hx, hk x hx]

/-- A link whose idle data phase is answered as R149 says remembers ERROR1 only of a transfer. -/
theorem err1_of_xfer_next (k : LinkMon) (w : Wire) (hidle : k.xfer = none → w.resp = idleResp) :
    ((k.next w).xfer.isSome || !(k.next w).err1) = true := by
  cases hr : hready w.resp with
  | true => simp [status_ne_error1_of_hready _ hr]
  | false =>
    cases hx : k.xfer with
    | none => rw [hidle hx] at hr; cases hr
    | some x => simp [hr, hx]

/-! One adapter (the tables of R291 and R321). -/

/-- What a chain's adapter says of the data phases on the links above and below it. -/
def adapterLinks (q : SlaveRegs) (a : Adapter) (u d : LinkMon) : Bool :=
  match a with
  | .lb L _ => lbLinks L q.lb u d
  | .wb => wbLinks q.wb u d && (decide (q.wb.st ≠ .transparent) || u.xfer.isSome || !u.err1)

theorem chainLinks_cons (s : State) (n : Nat) (a : Adapter) (as : List Adapter) (j : Nat) :
    chainLinks s n (a :: as) j = true ↔
      phaseSizeExists s.cfg.w16 (s.slaveMonitor n j) = true ∧
        adapterLinks (s.slave n) a (s.slaveMonitor n j) (s.slaveMonitor n (j + 1)) = true ∧
        chainLinks s n as (j + 1) = true := by
  cases a <;> simp [chainLinks, adapterLinks, and_assoc]

/-- A line buffer that raises nothing keeps both its links as the table of R291 says: in what it sampled, or in the data
phase it waits in. -/
theorem lbLinks_next (r : LBReg) (L : Nat) (u d : LinkMon) (b : M2S) (rd : Resp) (en : Option Bool) (dp : BusValue)
    (hlinks : lbLinks L r u d = true) (hidle : r.idleResponse rd = false)
    (hwrite : r.writeSampled L b.ap rd = false) :
    lbLinks L (r.next L b.ap rd en) (u.next { ap := b.ap, dp := b.dp, resp := r.up rd })
      (d.next { ap := (r.down L b.ap rd).ap, dp := dp, resp := rd }) = true := by
  have hstatus := lb_up_status r rd hidle
  have hsame : hready (r.up rd) = hready rd := by simp [hready, hstatus]
  cases hr : hready rd with
  | true =>
    have herr := status_ne_error1_of_hready rd hr
    rw [hr] at hsame
    obtain ⟨ha, hst, hd⟩ | ⟨x, ha, hx, ⟨hst, hd⟩ | ⟨hst, hsize, -, -, hd⟩ | ⟨hst, hsize, -, -, hd⟩⟩ :=
      lb_next_sampled r L b.ap rd en hsame hwrite <;>
      simp [lbLinks, *, fetchXfer]
  | false =>
    rw [hr] at hsame
    obtain ⟨hnext, hst⟩ := lb_next_of_waiting r L b.ap rd en hsame
    unfold lbLinks at hlinks ⊢
    simp only [linkMon_next_xfer, linkMon_next_err1, hsame, hr, hnext, lb_toggle_st, lb_toggle_rsize, hstatus]
    obtain hst | hst := hst <;> simp only [hst] at hlinks ⊢ <;> grind

section
variable (a h : AP) (d : BusValue) (held : Option AP) (u : M2S) (rd : Resp)

/-! What a write buffer drives in each state (R324 to R326). -/

@[simp] theorem wb_rest_up : WBReg.rest.up rd = rd := rfl
@[simp] theorem wb_first_up : (WBReg.first a).up rd = idleResp := rfl
@[simp] theorem wb_injected_up : (WBReg.injected h).up rd = { status := .pending, data := .absent } := rfl

theorem wb_async_up :
    (WBReg.async a d held).up rd = if held = none then idleResp else { status := .pending, data := .absent } := by
  cases held <;> rfl

theorem wb_rest_down : xferOf (WBReg.rest.down u rd).ap = xferOf u.ap := rfl

theorem wb_first_down (hs : rd.status = .success) : xferOf ((WBReg.first a).down u rd).ap = xferOf u.ap := by
  simp [xferOf, WBReg.down, WBReg.downCtl, WBReg.first, hs]

theorem wb_injected_down : xferOf ((WBReg.injected h).down u rd).ap = xferOf h := rfl

/-- At the end of a buffered write that succeeded its candidate goes down if it is bufferable (R326). -/
theorem wb_async_down_success (hs : rd.status = .success) :
    xferOf ((WBReg.async a d held).down u rd).ap =
      if compatible (held.getD u.ap) then xferOf (held.getD u.ap) else none := by
  have hctl : ((WBReg.async a d held).down u rd).ap.ctl =
      if compatible (held.getD u.ap) then (held.getD u.ap).ctl else .idle := by
    simp only [WBReg.down, WBReg.downCtl, WBReg.async, hs]
    cases held <;> rfl
  unfold xferOf
  rw [hctl]
  by_cases hc : compatible (held.getD u.ap) = true
  · rw [if_pos hc, if_pos hc]
  · rw [if_neg hc, if_neg hc]

theorem wb_async_down_error2 (hs : rd.status = .error2) : xferOf ((WBReg.async a d held).down u rd).ap = none := by
  simp [xferOf, WBReg.down, WBReg.downCtl, WBReg.async, hs]

end

/-! Both links of a write buffer at an edge, from each of its states (the table of R321). -/

section
variable (u d : LinkMon) (b : M2S) (rd : Resp) (dp : BusValue)

theorem wbLinks_rest : wbLinks .rest u d = true ↔ u.xfer = d.xfer ∧ u.err1 = d.err1 := by
  simp [wbLinks, WBReg.rest]

theorem wbLinks_of_first (w : WBReg) (hst : w.st = .bufferedWriteFirst) :
    wbLinks w u d = true ↔
      u.xfer = optXfer w.bap ∧ d.xfer = optXfer w.bap ∧ u.err1 = false ∧ d.err1 = false := by
  simp [wbLinks, hst, and_assoc]

theorem wbLinks_of_async (w : WBReg) (hst : w.st = .bufferedWriteAsync) :
    wbLinks w u d = true ↔
      u.xfer = optXfer w.held ∧ d.xfer = optXfer w.bap ∧ u.err1 = false ∧
        widthOf (w.bdata.getD .absent) = apBytes w.bap := by
  simp [wbLinks, hst, and_assoc]

theorem wbLinks_of_injected (w : WBReg) (hst : w.st = .idleInjectionDone) :
    wbLinks w u d = true ↔ u.xfer = optXfer w.held ∧ d.xfer = none ∧ u.err1 = false ∧ d.err1 = false := by
  simp [wbLinks, hst, and_assoc]

theorem wbLinks_first (a : AP) :
    wbLinks (.first a) u d = true ↔ u.xfer = xferOf a ∧ d.xfer = xferOf a ∧ u.err1 = false ∧ d.err1 = false :=
  wbLinks_of_first u d (.first a) rfl

theorem wbLinks_async (a : AP) (v : BusValue) (held : Option AP) :
    wbLinks (.async a v held) u d = true ↔
      u.xfer = optXfer held ∧ d.xfer = xferOf a ∧ u.err1 = false ∧ widthOf v = apBytes (some a) :=
  wbLinks_of_async u d (.async a v held) rfl

theorem wbLinks_injected (h : AP) :
    wbLinks (.injected h) u d = true ↔ u.xfer = xferOf h ∧ d.xfer = none ∧ u.err1 = false ∧ d.err1 = false :=
  wbLinks_of_injected u d (.injected h) rfl

/-- The link above a write buffer after a cycle, and the link below it. -/
abbrev upMonNext (w : WBReg) : LinkMon := u.next { ap := b.ap, dp := b.dp, resp := w.up rd }
abbrev downMonNext (w : WBReg) : LinkMon := d.next { ap := (w.down b rd).ap, dp := dp, resp := rd }

theorem wbLinks_next_rest (h : wbLinks .rest u d = true) :
    wbLinks (WBReg.rest.next b rd) (upMonNext u b rd .rest) (downMonNext d b rd dp .rest) = true := by
  rw [wbLinks_rest] at h
  rw [wb_rest_next]
  split
  next hc =>
    simp only [Bool.and_eq_true] at hc
    simp [wbLinks_first, wb_rest_down, hc.1, status_ne_error1_of_hready rd hc.1]
  next => exact (wbLinks_rest ..).2 ⟨by simp [wb_rest_down, h.1], rfl⟩

theorem wbLinks_next_first (a : AP) (h : wbLinks (.first a) u d = true)
    (herror : rd.status ≠ .error2) (hwidth : widthOf b.dp = apBytes (some a)) :
    wbLinks ((WBReg.first a).next b rd) (upMonNext u b rd (.first a)) (downMonNext d b rd dp (.first a)) = true := by
  rw [wbLinks_first] at h
  rw [wb_first_next]
  cases hs : rd.status with
  | success =>
    dsimp only
    split <;> simp [wbLinks_first, wbLinks_rest, wb_first_down, hs, hready, statusReady, idleResp]
  | pending => simp [wbLinks_async, hs, hready, statusReady, idleResp, h, hwidth]
  | error1 => simp [wbLinks_async, hs, hready, statusReady, idleResp, h, hwidth]
  | error2 => exact absurd hs herror

/-- After the buffered write ended, with the link below having sampled `down`. -/
theorem wbLinks_drained (cand : AP) (p : Bool) (k : LinkMon) (l : LinkMon) (hk : k.xfer = xferOf cand)
    (hl : l.xfer = if p && compatible cand then xferOf cand else none) (hkerr : k.err1 = false)
    (hlerr : l.err1 = false) : wbLinks (WBReg.drained cand p) k l = true := by
  rw [wb_drained_eq]
  split
  next hc => rw [if_pos hc] at hl; simp [wbLinks_first, *]
  next hc =>
    rw [if_neg hc] at hl
    split
    next => simp [wbLinks_injected, *]
    next hx =>
      have : xferOf cand = none := by simpa [isXfer] using hx
      simp [wbLinks_rest, *]

theorem wbLinks_next_async (a : AP) (v : BusValue) (held : Option AP) (h : wbLinks (.async a v held) u d = true) :
    wbLinks ((WBReg.async a v held).next b rd) (upMonNext u b rd (.async a v held))
      (downMonNext d b rd dp (.async a v held)) = true := by
  rw [wbLinks_async] at h
  obtain ⟨hu, hd, hue, hwidth⟩ := h
  have hup : (upMonNext u b rd (.async a v held)).xfer = xferOf (held.getD b.ap) ∧
      (upMonNext u b rd (.async a v held)).err1 = false := by
    cases held with
    | none => simp [wb_async_up, hready, statusReady, idleResp]
    | some k =>
      have hu : u.xfer = xferOf k := hu
      simp [wb_async_up, hready, statusReady, hu]
  have hor : xferOf (held.getD b.ap) = optXfer (held.or (keptAP b.ap)) := by
    cases held with
    | none => simp
    | some k => rfl
  rw [wb_async_next]
  cases hs : rd.status with
  | success =>
    refine wbLinks_drained _ _ _ _ hup.1 ?_ hup.2 ?_ <;>
      simp [hs, hready, statusReady, wb_async_down_success]
  | error2 =>
    refine wbLinks_drained _ _ _ _ hup.1 ?_ hup.2 ?_ <;>
      simp [hs, hready, statusReady, wb_async_down_error2]
  | pending => exact (wbLinks_async ..).2 ⟨hup.1.trans hor, by simp [hs, hready, statusReady, hd], hup.2, hwidth⟩
  | error1 => exact (wbLinks_async ..).2 ⟨hup.1.trans hor, by simp [hs, hready, statusReady, hd], hup.2, hwidth⟩

theorem wbLinks_next_injected (k : AP) (h : wbLinks (.injected k) u d = true) (hrd : rd = idleResp) :
    wbLinks ((WBReg.injected k).next b rd) (upMonNext u b rd (.injected k))
      (downMonNext d b rd dp (.injected k)) = true := by
  rw [wbLinks_injected] at h
  rw [wb_injected_next, hrd]
  simp only [hready, idleResp, statusReady, if_true]
  split <;> simp [wbLinks_first, wbLinks_rest, wb_injected_down, hready, statusReady, h]

theorem wb_widthOf_of_first (w : WBReg) (v : BusValue) (hst : w.st = .bufferedWriteFirst)
    (h : w.widthMismatch v = false) : widthOf v = apBytes w.bap := by
  simpa [WBReg.widthMismatch, hst] using h

/-- A write buffer with a quiet port keeps both its links as the table of R321 says. -/
theorem wbLinks_next (q : SlaveRegs) (hinv : wbInvariant q.wb = true) (hquiet : PortQuiet q (.wb, b, rd))
    (h : wbLinks q.wb u d = true) :
    wbLinks (q.wb.next b rd) (upMonNext u b rd q.wb) (downMonNext d b rd dp q.wb) = true := by
  obtain ⟨-, hidle, hwidth, herror⟩ := hquiet
  simp only [adapterIdleResponse, adapterWidthMismatch, adapterErrorSequence] at hidle hwidth herror
  obtain hw | ⟨a, -, hw⟩ | ⟨a, v, held, -, -, hw⟩ | ⟨k, -, hw⟩ := (wbInvariant_iff q.wb).1 hinv <;>
    rw [hw] at h hidle hwidth herror ⊢
  · exact wbLinks_next_rest u d b rd dp h
  · refine wbLinks_next_first u d b rd dp a h ?_ ?_
    · simpa [WBReg.errorSequence, WBReg.first] using herror
    · exact wb_widthOf_of_first (.first a) b.dp rfl hwidth
  · exact wbLinks_next_async u d b rd dp a v held h
  · refine wbLinks_next_injected u d b rd dp k h ?_
    simpa [WBReg.idleResponse, WBReg.injected] using hidle

end

/-- An idle data phase above an adapter is answered as R149 says, if the one below it is. -/
theorem adapterUp_idle (q : SlaveRegs) (a : Adapter) (u d : LinkMon) (rd : Resp) (hinv : wbInvariant q.wb = true)
    (h : adapterLinks q a u d = true) (hd : d.xfer = none → rd = idleResp) (hu : u.xfer = none) :
    adapterUp q a rd = idleResp := by
  cases a with
  | lb L e =>
    have hst : q.lb.st = .idle := by
      simp only [adapterLinks, lbLinks, hu] at h
      split at h <;> simp_all
    simp [adapterUp, LBReg.up, hst]
  | wb =>
    obtain ⟨h, -⟩ := (Bool.and_eq_true_iff ..).1 h
    simp only [adapterUp]
    obtain hw | ⟨a, ha, hw⟩ | ⟨a, v, held, -, hheld, hw⟩ | ⟨k, hk, hw⟩ := (wbInvariant_iff q.wb).1 hinv <;>
      rw [hw] at h ⊢
    · exact hd (((wbLinks_rest u d).1 h).1 ▸ hu)
    · rfl
    · obtain ⟨hxu, -⟩ := (wbLinks_async u d a v held).1 h
      rw [hu] at hxu
      cases held with
      | none => rfl
      | some k =>
        have hx := hheld k rfl
        have hxu : none = xferOf k := hxu
        simp [isXfer, ← hxu] at hx
    · obtain ⟨hxu, -⟩ := (wbLinks_injected u d k).1 h
      rw [hu] at hxu
      simp [isXfer, ← hxu] at hk

/-- Either adapter keeps what its table says of its links, as its registers and both monitors take their edge. -/
theorem adapterLinks_next (q new : SlaveRegs) (en : Option Bool) (a : Adapter) (u d : LinkMon) (b : M2S) (rd : Resp)
    (dp : BusValue) (hinv : wbInvariant q.wb = true) (hquiet : PortQuiet q (a, b, rd))
    (htaken : AdapterTaken q new en (a, b, rd)) (h : adapterLinks q a u d = true)
    (hd : d.xfer = none → rd = idleResp) :
    adapterLinks new a (u.next { ap := b.ap, dp := b.dp, resp := adapterUp q a rd })
      (d.next { ap := (adapterDown q a b rd).ap, dp := dp, resp := rd }) = true := by
  cases a with
  | lb L e =>
    have hnew : new.lb = q.lb.next L b.ap rd en := htaken
    simp only [adapterLinks, hnew]
    exact lbLinks_next q.lb L u d b rd en dp h hquiet.idleResponse (writeSampled_of_quiet q L e b rd hquiet)
  | wb =>
    have hnew : new.wb = q.wb.next b rd := htaken
    have hup := adapterUp_idle q .wb u d rd hinv h hd
    obtain ⟨h, -⟩ := (Bool.and_eq_true_iff ..).1 h
    have herr := err1_of_xfer_next u { ap := b.ap, dp := b.dp, resp := adapterUp q .wb rd } hup
    simp only [adapterLinks, hnew, Bool.and_eq_true]
    exact ⟨wbLinks_next u d b rd dp q hinv hquiet h, by rw [Bool.or_assoc, herr, Bool.or_true]⟩

/-! A chain. -/

/-- A chain whose slave answers its idle data phase as R151 (1) says shows that answer on every idle link. -/
theorem chainUp_idle (s : State) (n : Nat) (r : Resp) (hinv : wbInvariant (s.slave n).wb = true) (as : List Adapter)
    (j : Nat) (hlinks : chainLinks s n as j = true)
    (hslave : (s.slaveMonitor n (j + as.length)).xfer = none → r = idleResp)
    (hidle : (s.slaveMonitor n j).xfer = none) : chainUp (s.slave n) as r = idleResp := by
  induction as generalizing j with
  | nil => exact hslave hidle
  | cons a as ih =>
    obtain ⟨-, hadapter, hlinks⟩ := (chainLinks_cons s n a as j).1 hlinks
    have hslave : (s.slaveMonitor n (j + 1 + as.length)).xfer = none → r = idleResp := by
      rwa [Nat.add_assoc, Nat.add_comm 1]
    exact adapterUp_idle _ a _ _ _ hinv hadapter (ih (j + 1) hlinks hslave) hidle

theorem chainWires_eq_cons (q : SlaveRegs) (as : List Adapter) (u : M2S) (r : Resp) :
    ∃ ws, chainWires q as u r = { ap := u.ap, dp := u.dp, resp := chainUp q as r } :: ws := by
  cases as with
  | nil => exact ⟨[], rfl⟩
  | cons a as => exact ⟨_, rfl⟩

theorem chainWires_length (q : SlaveRegs) (as : List Adapter) (u : M2S) (r : Resp) :
    (chainWires q as u r).length = as.length + 1 := by
  induction as generalizing u with
  | nil => rfl
  | cons a as ih => simp [chainWires, ih]

/-- The monitor of a link below an output stage at the edge (R396). -/
theorem edge_slaveMonitor_of_wire (c : Cycle) (n j : Nat) (w : Wire) (hn : n < c.st.cfg.ns)
    (hw : (c.wires n)[j]? = some w) : c.edge.slaveMonitor n j = (c.st.slaveMonitor n j).next w := by
  rw [edge_slaveMonitor c n j hn]
  simp [Cycle.nextMonitors, List.getD_eq_getElem?_getD, List.getElem?_map, List.getElem?_zipIdx, hw]

/-- What the chain below output stage `n` needs of a cycle for its links to stay what its adapters say they are. -/
structure ChainKeeps (c : Cycle) (n : Nat) : Prop where
  lt : n < c.st.cfg.ns
  wb : wbInvariant (c.st.slave n).wb = true
  quiet : ∀ p ∈ c.ports n, PortQuiet (c.st.slave n) p
  taken : ∀ p ∈ c.ports n, AdapterTaken (c.st.slave n) (c.nextSlave n) (c.lbEn n) p
  sizes : ∀ w ∈ c.wires n, APAll (fun x => sizeCodeExists c.st.cfg.w16 x.size = true) w.ap
  obeys : (c.st.slaveMonitor n (c.st.cfg.slave n).chain.length).xfer = none → c.slaveResp n = idleResp

section
variable (c : Cycle) (n : Nat)

/-- The wire of link `j`, given those from it down. -/
theorem wire_of_drop (as : List Adapter) (j : Nat) (u : M2S)
    (hwires : (c.wires n).drop j = chainWires (c.st.slave n) as u (c.slaveResp n)) :
    (c.wires n)[j]? = some { ap := u.ap, dp := u.dp, resp := chainUp (c.st.slave n) as (c.slaveResp n) } := by
  obtain ⟨ws, hws⟩ := chainWires_eq_cons (c.st.slave n) as u (c.slaveResp n)
  rw [← Nat.add_zero j, ← List.getElem?_drop, hwires, hws]
  rfl

variable (k : ChainKeeps c n)
include k

theorem phaseSizeExists_edge (j : Nat) (w : Wire) (hw : (c.wires n)[j]? = some w)
    (h : phaseSizeExists c.st.cfg.w16 (c.st.slaveMonitor n j) = true) :
    phaseSizeExists c.edge.cfg.w16 (c.edge.slaveMonitor n j) = true := by
  rw [edge_slaveMonitor_of_wire c n j w k.lt hw]
  exact phaseSizeExists_next _ _ w h (k.sizes w (List.mem_of_getElem? hw))

/-- The links from link `j` down, below which the chain is `as`, stay what the adapters say: by induction along the
chain, `u` being the bundle on link `j`. -/
theorem chainLinks_edge (as : List Adapter) (j : Nat) (u : M2S)
    (hlen : j + as.length = (c.st.cfg.slave n).chain.length)
    (hwires : (c.wires n).drop j = chainWires (c.st.slave n) as u (c.slaveResp n))
    (hports : chainPorts (c.st.slave n) as u (c.slaveResp n) ⊆ c.ports n)
    (hlinks : chainLinks c.st n as j = true) : chainLinks c.edge n as j = true := by
  have hwire := wire_of_drop c n as j u hwires
  induction as generalizing j u with
  | nil =>
    obtain ⟨hsize, -⟩ := (Bool.and_eq_true_iff ..).1 hlinks
    have hj : j = (c.st.cfg.slave n).chain.length := hlen
    rw [chainLinks, phaseSizeExists_edge c n k j _ hwire hsize, edge_slaveMonitor_of_wire c n j _ k.lt hwire]
    exact err1_of_xfer_next _ _ (hj ▸ k.obeys)
  | cons a as ih =>
    obtain ⟨hsize, hadapter, hlinks⟩ := (chainLinks_cons c.st n a as j).1 hlinks
    rw [List.length_cons, ← Nat.add_assoc, Nat.add_right_comm] at hlen
    have hbelow : (c.wires n).drop (j + 1) = chainWires (c.st.slave n) as
        (adapterDown (c.st.slave n) a u (chainUp (c.st.slave n) as (c.slaveResp n))) (c.slaveResp n) := by
      rw [← List.drop_drop, hwires]
      rfl
    have hwire' := wire_of_drop c n as (j + 1) _ hbelow
    have hidle := chainUp_idle c.st n (c.slaveResp n) k.wb as (j + 1) hlinks (hlen ▸ k.obeys)
    have hport := hports List.mem_cons_self
    refine (chainLinks_cons c.edge n a as j).2 ⟨phaseSizeExists_edge c n k j _ hwire hsize, ?_,
      ih (j + 1) _ hlen hbelow (fun p hp => hports (List.mem_cons_of_mem _ hp)) hlinks hwire'⟩
    rw [edge_slave c n k.lt, edge_slaveMonitor_of_wire c n j _ k.lt hwire,
      edge_slaveMonitor_of_wire c n (j + 1) _ k.lt hwire']
    exact adapterLinks_next _ _ _ a _ _ u _ _ k.wb (k.quiet _ hport) (k.taken _ hport) hadapter hidle

end

/-! A cycle that does not stop, below an output stage. -/

/-- The transfer a write buffer holds is in data phase on the link above it, so it has a size that exists. -/
theorem held_sizeExists (s : State) (n : Nat) (hinv : wbInvariant (s.slave n).wb = true) (as : List Adapter) (j : Nat)
    (hlinks : chainLinks s n as j = true) (hmem : .wb ∈ as) (x : Xfer)
    (hx : optXfer (s.slave n).wb.held = some x) : sizeCodeExists s.cfg.w16 x.size = true := by
  induction as generalizing j with
  | nil => cases hmem
  | cons a as ih =>
    obtain ⟨hsize, hadapter, hbelow⟩ := (chainLinks_cons s n a as j).1 hlinks
    cases a with
    | lb L e => exact ih (j + 1) hbelow (by simpa using hmem)
    | wb =>
      rw [phaseSizeExists_iff] at hsize
      obtain ⟨hwb, -⟩ := (Bool.and_eq_true_iff ..).1 hadapter
      refine hsize x ?_
      obtain hw | ⟨a, -, hw⟩ | ⟨a, v, held, -, -, hw⟩ | ⟨k, -, hw⟩ := (wbInvariant_iff _).1 hinv <;>
        rw [hw] at hx hwb
      · cases hx
      · cases hx
      · exact ((wbLinks_async ..).1 hwb).1.trans hx
      · exact ((wbLinks_injected ..).1 hwb).1.trans hx

theorem slaveObeys_idle (k : LinkMon) (r : Resp) (h : slaveObeys k r = true) (hk : k.xfer = none) : r = idleResp := by
  simpa [slaveObeys, hk] using h

theorem stageResp_of_no_owner (c : Cycle) (n : Nat) (hstop : c.stop = none) (hn : n < c.st.cfg.ns)
    (h : (c.st.slave n).downer = none) : c.stageResp n = idleResp := by
  obtain ⟨-, hstray, -⟩ := (stop_none c hstop).2 n hn
  simpa [Cycle.strayResponse, violationIf_none, Machine.strayResponse, h] using hstray

section
variable (c : Cycle) (hstop : c.stop = none) (hvalid : validCfg c.st.cfg = true)
  (hinv : Sys2Proof.Machine.Invariant c.st) (hobey : AgentsObey c)
include hstop hvalid hinv hobey

theorem chainKeeps_of_no_stop (n : Nat) (hn : n < c.st.cfg.ns) : ChainKeeps c n := by
  obtain ⟨hroute, hadapter, -, hlinks⟩ := hinv
  have hwb := (hadapter n hn).1
  have hchain := validChain_of_validCfg c.st.cfg n hvalid hn
  refine ⟨hn, hwb, portQuiet_of_no_stop c n hstop hn, adapterTaken_of_mem _ _ _ _ _ _ _ _ _ hchain,
    (apAll_chain _ _ _ _ _ ?_ ?_ ?_).2, slaveObeys_idle _ _ (hobey.2 n hn)⟩
  · rintro L e hmem x -
    exact lineSizeCode_exists _ L (validChain_mem _ _ L e _ hchain hmem).1
  · exact fun hmem => held_sizeExists c.st n hwb _ 0 (hlinks n hn).1 hmem
  · intro x hx
    obtain ⟨m, -, -, hcheck⟩ := stageAP_checked c n x hstop hroute hx
    exact sizeCodeExists_of_checkAll _ m x hcheck

/-- The links below output stage `n` at the edge. -/
theorem chainLinks_edge_of_no_stop (n : Nat) (hn : n < c.st.cfg.ns) :
    chainLinks c.edge n (c.st.cfg.slave n).chain 0 = true :=
  chainLinks_edge c n (chainKeeps_of_no_stop c hstop hvalid hinv hobey n hn) _ 0 _ (Nat.zero_add _) rfl
    (List.Subset.refl _) (hinv.2.2.2 n hn).1

end

/-! The link below an output stage (R263, R269). -/

/-- The monitor of the link below output stage `n` follows what the stage forwards. -/
theorem edge_slaveMonitor_zero (c : Cycle) (n : Nat) (hn : n < c.st.cfg.ns) :
    c.edge.slaveMonitor n 0 =
      (c.st.slaveMonitor n 0).next { ap := c.stageAP n, dp := c.stageData n, resp := c.stageResp n } :=
  edge_slaveMonitor_of_wire c n 0 _ hn (wire_of_drop c n _ 0 { ap := c.stageAP n, dp := c.stageData n } rfl)

/-- The address phase an output stage forwards while its owner has a committed transfer for it (R263). -/
theorem stageAP_of_transfer (c : Cycle) (n o : Nat) (hown : c.own n = some o) (htarget : c.target o = some (.slave n))
    (hcommitted : c.committed o = true) :
    c.stageAP n = { ctl := (c.cand o).ctl, ready := c.rdy n, tag := (c.cand o).tag } := by
  have howner := (ownerTransfer_eq_some c n o (c.cand o)).2 ⟨hown, htarget, hcommitted, rfl⟩
  unfold Cycle.stageAP forwardedAP
  rw [howner]

/-- An output stage that accepts a master forwards its candidate. -/
theorem stageAP_of_acc (c : Cycle) (n m : Nat) (h : c.acc n = some m) : xferOf (c.stageAP n) = xferOf (c.cand m) := by
  obtain ⟨hown, htarget, hcommitted, -⟩ := (acc_eq_some c n m).1 h
  rw [stageAP_of_transfer c n m hown htarget hcommitted]
  rfl

/-- One that is ready and accepts nobody forwards no transfer. -/
theorem stageAP_of_no_acc (c : Cycle) (n : Nat) (hrdy : c.rdy n = true) (h : c.acc n = none) :
    xferOf (c.stageAP n) = none := by
  obtain ⟨o, hown, htarget, hcommitted, -⟩ | hidle := stageAP_cases c n
  · rw [(acc_eq_some c n o).2 ⟨hown, htarget, hcommitted, hrdy⟩] at h
    cases h
  · rw [hidle]; rfl

theorem lt_ns_of_own (c : Cycle) (n m : Nat) (h : c.own n = some m) : n < c.st.cfg.ns := by
  by_contra hn
  have hlen : c.st.cfg.slaves.length ≤ n := Nat.le_of_not_lt hn
  have harb : (c.st.cfg.slave n).arb = .rejecting := by
    simp [Cfg.slave, List.getD_eq_getElem?_getD, List.getElem?_eq_none hlen, SlaveCfg.absent]
  rw [own_of_rejecting c n harb] at h
  cases h

/-- An output stage that no data phase is left at has an idle link (R269). -/
theorem idle_link_of_no_owner (c : Cycle) (n : Nat) (hstop : c.stop = none) (hn : n < c.st.cfg.ns)
    (h : (c.edge.slave n).downer = none) :
    (c.edge.slaveMonitor n 0).xfer = none ∧ (c.edge.slaveMonitor n 0).err1 = false := by
  have hrdy : c.rdy n = true := by
    by_contra hrdy
    rw [edge_slave c n hn, nextSlave_downer, downerNext, if_neg hrdy] at h
    rw [Cycle.rdy, stageResp_of_no_owner c n hstop hn h] at hrdy
    exact hrdy rfl
  rw [edge_slave c n hn, nextSlave_downer, downerNext, if_pos hrdy] at h
  have hready : hready (c.stageResp n) = true := hrdy
  rw [edge_slaveMonitor_zero c n hn]
  simp [hready, stageAP_of_no_acc c n hrdy h, status_ne_error1_of_hready _ hready]

/-! A master's link (R241 to R246). -/

/-- What `masterLink` says, a case of the input stage's registers at a time. -/
theorem masterLink_iff (s : State) (m : Nat) :
    masterLink s m = true ↔
      phaseSizeExists s.cfg.w16 (s.masterMonitor m) = true ∧
        (∀ h, (s.master m).is.held = some h →
          (s.masterMonitor m).xfer = xferOf h ∧ (s.masterMonitor m).err1 = false) ∧
        ((s.master m).is.held = none →
          (∀ n, (s.master m).is.dpt = some (.slave n) →
            (s.masterMonitor m).xfer.isSome = true ∧ (s.masterMonitor m).xfer = (s.slaveMonitor n 0).xfer ∧
              (s.masterMonitor m).err1 = (s.slaveMonitor n 0).err1) ∧
          ((s.master m).is.dpt = some .dflt →
            (s.masterMonitor m).xfer.isSome = true ∧
              (s.masterMonitor m).err1 = decide ((s.master m).dflt = .err2)) ∧
          ((s.master m).is.dpt = none → (s.masterMonitor m).xfer = none ∧ (s.masterMonitor m).err1 = false)) := by
  unfold masterLink
  cases (s.master m).is.held with
  | some h => simp
  | none =>
    obtain _ | _ | _ := (s.master m).is.dpt <;> simp [and_assoc]

/-- The three ways an input stage leaves a committed cycle (R246). -/
theorem isReg_next_of_committed (r : ISReg) (a : AP) (x : Option Target) (g : Option Grant) :
    (isXfer a = false ∧ r.next true a x g = { held := none, dpt := none }) ∨
      (isXfer a = true ∧ g = some .grant ∧ r.next true a x g = { held := none, dpt := x }) ∨
      (isXfer a = true ∧ r.next true a x g = { held := some a, dpt := none }) := by
  unfold ISReg.next
  grind

/-- In a committed cycle the master's link ends it with the candidate in data phase. -/
theorem masterMonitor_next_of_committed (c : Cycle) (m : Nat) (hlink : masterLink c.st m = true)
    (hcommitted : c.committed m = true) :
    ((c.st.masterMonitor m).next (c.masterWire m)).xfer = xferOf (c.cand m) ∧
      ((c.st.masterMonitor m).next (c.masterWire m)).err1 = false := by
  cases hheld : (c.st.master m).is.held with
  | some h =>
    obtain ⟨-, hhold, -⟩ := (masterLink_iff c.st m).1 hlink
    have hresp : c.resp m = { status := .pending, data := .absent } := by
      simp [Cycle.resp, ISReg.response, hheld]
    simp [Cycle.masterWire, hresp, hready, statusReady, cand_of_held c m h hheld, (hhold h hheld).1]
  | none =>
    have hready : hready (c.resp m) = true := by
      rw [← hcommitted]
      simp only [Cycle.resp, ISReg.response, Cycle.committed, ISReg.committed, hheld]
      split <;> rfl
    simp [Cycle.masterWire, hready, status_ne_error1_of_hready _ hready, cand_of_not_held c m hheld]

section
variable (c : Cycle) (m : Nat) (hm : m < c.st.cfg.nm)
include hm

theorem edge_master_is : (c.edge.master m).is =
    (c.st.master m).is.next (c.committed m) (c.cand m) (c.target m) (c.grant m) := by
  rw [edge_master c m hm]
  rfl

/-- After a committed cycle a master's link agrees with its input stage: the candidate was accepted, at a slave's output
stage or the default slave, or is held, or there was none. -/
theorem masterLink_edge_of_committed (hlink : masterLink c.st m = true) (hcommitted : c.committed m = true)
    (hsize : APAll (fun x => sizeCodeExists c.st.cfg.w16 x.size = true) (c.cand m)) :
    masterLink c.edge m = true := by
  obtain ⟨hxfer, herr⟩ := masterMonitor_next_of_committed c m hlink hcommitted
  have his := edge_master_is c m hm
  rw [hcommitted] at his
  rw [masterLink_iff, edge_masterMonitor c m hm, hxfer, herr, phaseSizeExists_iff, hxfer]
  refine ⟨hsize, ?_⟩
  obtain ⟨hcand, hnext⟩ | ⟨hcand, hgrant, hnext⟩ | ⟨hcand, hnext⟩ :=
    isReg_next_of_committed (c.st.master m).is (c.cand m) (c.target m) (c.grant m)
  · rw [his, hnext]
    simpa [isXfer] using hcand
  · rw [his, hnext]
    refine ⟨nofun, fun _ =>
      ⟨fun n htarget => ⟨hcand, ?_⟩, fun htarget => ⟨hcand, ?_⟩, fun htarget => ?_⟩⟩
    · have hacc : c.acc n = some m := by
        dsimp only at htarget
        rw [Cycle.grant, htarget] at hgrant
        simpa [portGrant_slave, htarget] using hgrant
      obtain ⟨hown, -, -, hrdy⟩ := (acc_eq_some c n m).1 hacc
      have hready : hready (c.stageResp n) = true := hrdy
      rw [edge_slaveMonitor_zero c n (lt_ns_of_own c n m hown)]
      simp [hready, stageAP_of_acc c n m hacc, status_ne_error1_of_hready _ hready]
    · dsimp only at htarget
      rw [Cycle.grant, htarget] at hgrant
      rw [edge_master c m hm, nextMaster_dflt]
      simp [DefPhase.next, hgrant]
    · dsimp only at htarget
      rw [Cycle.grant, htarget] at hgrant
      cases hgrant
  · rw [his, hnext]
    exact ⟨fun h hh => by cases hh; exact ⟨rfl, rfl⟩, nofun⟩

/-- In a wait state the master's link and the port that holds its data phase show one response, and nothing moves but
the default slave's error. -/
theorem masterLink_edge_of_waiting (hroute : RouteInvariant c.st) (hlink : masterLink c.st m = true)
    (hwait : c.committed m = false) : masterLink c.edge m = true := by
  obtain ⟨-, hmasters, -⟩ := hroute
  obtain ⟨hexcl, -, hknown, -, hddowner, howner⟩ := hmasters m hm
  obtain ⟨hsize, -, hphase⟩ := (masterLink_iff c.st m).1 hlink
  have hheld : (c.st.master m).is.held = none := by
    by_contra hheld
    simp [Cycle.committed, ISReg.committed, hexcl hheld] at hwait
  obtain ⟨hslave, hdflt, -⟩ := hphase hheld
  have his : (c.edge.master m).is = (c.st.master m).is := by
    rw [edge_master_is c m hm, hwait]
    rfl
  have hready : hready (c.masterWire m).resp = false := by
    rw [← hwait]
    simp only [Cycle.masterWire, Cycle.resp, ISReg.response, Cycle.committed, ISReg.committed, hheld]
    split <;> rfl
  rw [masterLink_iff, edge_masterMonitor c m hm, his, hheld, phaseSizeExists_iff, linkMon_next_xfer, linkMon_next_err1,
    hready]
  refine ⟨(phaseSizeExists_iff _ _).1 hsize, nofun, fun _ => ⟨fun n hdpt => ?_, fun hdpt => ?_, fun hdpt => ?_⟩⟩
  · have hn : n < c.st.cfg.ns := by simpa [knownTarget, hdpt] using hknown
    have hresp : (c.masterWire m).resp = c.stageResp n := by
      simp [Cycle.masterWire, Cycle.resp, ISReg.response, hheld, hdpt, Cycle.portResp, dispatched, (howner n hn).1 hdpt]
    obtain ⟨hsome, hsame, -⟩ := hslave n hdpt
    rw [hresp] at hready ⊢
    rw [edge_slaveMonitor_zero c n hn]
    exact ⟨hsome, by simpa [hready] using hsame, rfl⟩
  · have hresp : (c.masterWire m).resp = (c.st.master m).dflt.response := by
      simp [Cycle.masterWire, Cycle.resp, ISReg.response, hheld, hdpt, portResp_dflt, hddowner]
    have hnext : (c.edge.master m).dflt = (c.st.master m).dflt.next (c.portGrant m .dflt) := by
      rw [edge_master c m hm]
      rfl
    have hgrant : c.portGrant m .dflt ≠ some .grant := by
      rw [portGrant_dflt, hwait]
      split <;> simp
    rw [hresp] at hready ⊢
    rw [hnext]
    cases hd : (c.st.master m).dflt with
    | err1 => simp [DefPhase.response, DefPhase.next, hgrant, (hdflt hdpt).1]
    | idle => rw [hd] at hready; cases hready
    | err2 => rw [hd] at hready; cases hready
  · simp [Cycle.committed, ISReg.committed, hdpt] at hwait

end

theorem masterLink_edge (c : Cycle) (hstop : c.stop = none) (hroute : RouteInvariant c.st) (m : Nat)
    (hm : m < c.st.cfg.nm) (hlink : masterLink c.st m = true) : masterLink c.edge m = true := by
  cases hcommitted : c.committed m with
  | false => exact masterLink_edge_of_waiting c m hm hroute hlink hcommitted
  | true =>
    refine masterLink_edge_of_committed c m hm hlink hcommitted fun x hx => ?_
    obtain ⟨-, hmasters, -⟩ := hroute
    obtain ⟨-, hheld, -⟩ := hmasters m hm
    exact sizeCodeExists_of_checkAll _ m x (cand_checked c m x hstop hm hheld hcommitted hx)

/-- Settles O18: every link at the edge of the cycle, the masters' and those of every chain. -/
theorem linkInvariantKept : Obligations.LinkInvariantKept := by
  intro s t i hinv hobey h
  obtain ⟨hvalid, hstop, rfl⟩ := runCycle_next s t _ (exec_next i s t h)
  refine ⟨fun m hm => masterLink_edge _ hstop hinv.1 m hm (hinv.2.2.1 m hm), fun n hn => ⟨?_, ?_⟩⟩
  · exact chainLinks_edge_of_no_stop _ hstop hvalid hinv hobey n hn
  · exact idle_link_of_no_owner _ n hstop hn

end Sys2Proof.Machine
end

section
/-! Settles O30. Privilege, the data bit, the ready flag and the tag are erased: every component commutes with the
erasure (it reads nothing that is erased, and carries it), so two cycles whose erasures agree have the same signals and
edges. -/

namespace Sys2Proof.Machine

/-! The erasure, and the relations of the claim in its terms. -/

/-- A transfer without what the block only carries (R33, R403). -/
def eraseXfer (x : Xfer) : Xfer := { x with prot := { x.prot with data := false, priv := false } }

/-- An address phase's control without what the block only carries. -/
def eraseCtl : Ctl → Ctl
  | .idle => .idle
  | .noSel => .noSel
  | .xfer x => .xfer (eraseXfer x)

/-- An address phase without what the block only carries (R33, R35, R81). -/
def eraseAP (a : AP) : AP := { ctl := eraseCtl a.ctl, ready := false, tag := none }

/-- A bundle without what the block only carries of its address phase. -/
def eraseM2S (b : M2S) : M2S := { b with ap := eraseAP b.ap }

/-- The same of a link's signals. -/
def Wire.erase (w : Wire) : Wire := { w with ap := eraseAP w.ap }

/-- The same of an adapter's port. -/
def erasePort (p : Adapter × M2S × Resp) : Adapter × M2S × Resp := (p.1, eraseM2S p.2.1, p.2.2)

/-- The same of an input stage's held address phase. -/
def ISReg.erase (r : ISReg) : ISReg := { r with held := r.held.map eraseAP }

/-- The same of a master's side. -/
def MasterRegs.erase (q : MasterRegs) : MasterRegs := { q with is := q.is.erase }

/-- The same of a write buffer's address phases. -/
def WBReg.erase (w : WBReg) : WBReg := { w with bap := w.bap.map eraseAP, held := w.held.map eraseAP }

/-- The same of a slave's side. -/
def SlaveRegs.erase (q : SlaveRegs) : SlaveRegs := { q with wb := q.wb.erase }

/-- The same of a monitor's data phase. -/
def LinkMon.erase (k : LinkMon) : LinkMon := { k with dp := k.dp.map eraseAP }

/-- The same of the address phase a stop reports. -/
def Fault.erase : Fault → Fault
  | .fatal f t p a => .fatal f t p (eraseAP a)
  | .violation f t p => .violation f t p

theorem eraseXfer_eq_iff (x y : Xfer) :
    eraseXfer x = eraseXfer y ↔
      x.kind = y.kind ∧ x.write = y.write ∧ x.size = y.size ∧ x.burst = y.burst ∧ x.lock = y.lock ∧ x.addr = y.addr ∧
        x.prot.bufferable = y.prot.bufferable ∧ x.prot.cacheable = y.prot.cacheable := by
  simp only [eraseXfer, Xfer.mk.injEq, Prot.mk.injEq]
  tauto

theorem sameButCarried_iff (a b : AP) : sameButCarried a b = true ↔ eraseAP a = eraseAP b := by
  obtain ⟨ctl, r, t⟩ := a
  obtain ⟨ctl', r', t'⟩ := b
  cases ctl <;> cases ctl' <;>
    simp [sameButCarried, eraseAP, eraseCtl, eraseXfer_eq_iff, and_assoc]

theorem sameOptAP_iff (a b : Option AP) : sameOptAP a b = true ↔ a.map eraseAP = b.map eraseAP := by
  cases a <;> cases b <;> simp [sameOptAP, sameButCarried_iff]

theorem sameMaster_iff (p q : MasterRegs) : sameMaster p q = true ↔ p.erase = q.erase := by
  obtain ⟨⟨_, _⟩, _, _⟩ := p
  obtain ⟨⟨_, _⟩, _, _⟩ := q
  simp [sameMaster, sameOptAP_iff, MasterRegs.erase, ISReg.erase, and_assoc]

theorem sameWB_iff (p q : WBReg) : sameWB p q = true ↔ p.erase = q.erase := by
  obtain ⟨_, _, _, _⟩ := p
  obtain ⟨_, _, _, _⟩ := q
  simp [sameWB, sameOptAP_iff, WBReg.erase, and_assoc]

theorem sameMon_iff (p q : LinkMon) : sameMon p q = true ↔ p.erase = q.erase := by
  obtain ⟨_, _⟩ := p
  obtain ⟨_, _⟩ := q
  simp [sameMon, sameOptAP_iff, LinkMon.erase]

theorem sameStop_iff (f g : Option Fault) : sameStop f g = true ↔ f.map Fault.erase = g.map Fault.erase := by
  rcases f with _ | ⟨_ | _⟩ <;> rcases g with _ | ⟨_ | _⟩ <;>
    simp [sameStop, Fault.erase, sameButCarried_iff, and_assoc]

theorem eraseSlave_eq_iff (p q : SlaveRegs) :
    p.erase = q.erase ↔ p.arb = q.arb ∧ p.downer = q.downer ∧ p.lb = q.lb ∧ p.wb.erase = q.wb.erase := by
  simp [SlaveRegs.erase]

theorem eraseM2S_eq_iff (b b' : M2S) : eraseM2S b = eraseM2S b' ↔ eraseAP b.ap = eraseAP b'.ap ∧ b.dp = b'.dp := by
  simp [eraseM2S]

/-! What is read of an address phase. -/

@[simp] theorem eraseCtl_idem (a : Ctl) : eraseCtl (eraseCtl a) = eraseCtl a := by cases a <;> rfl

@[simp] theorem eraseAP_idem (a : AP) : eraseAP (eraseAP a) = eraseAP a := by
  obtain ⟨ctl, r, t⟩ := a
  cases ctl <;> rfl

/-- The ready flag and the tag are erased. -/
theorem eraseAP_mk (ctl : Ctl) (r : Bool) (t : Option Nat) :
    eraseAP { ctl := ctl, ready := r, tag := t } = { ctl := eraseCtl ctl, ready := false, tag := none } := rfl

@[simp] theorem xferOf_erase (a : AP) : xferOf (eraseAP a) = (xferOf a).map eraseXfer := by
  obtain ⟨ctl, r, t⟩ := a
  cases ctl <;> rfl

@[simp] theorem isXfer_erase (a : AP) : isXfer (eraseAP a) = isXfer a := by
  simp [isXfer]

@[simp] theorem isIdle_erase (a : AP) : isIdle (eraseAP a) = isIdle a := by
  obtain ⟨ctl, r, t⟩ := a
  cases ctl <;> rfl

@[simp] theorem compatible_erase (a : AP) : compatible (eraseAP a) = compatible a := by
  simp only [compatible, xferOf_erase]
  cases xferOf a <;> rfl

@[simp] theorem lockFlag_erase (a : AP) : lockFlag (eraseAP a) = lockFlag a := by
  simp only [lockFlag, xferOf_erase]
  cases xferOf a <;> rfl

@[simp] theorem targetOf_erase (k : MasterCfg) (a : AP) : targetOf k (eraseAP a) = targetOf k a := by
  simp only [targetOf, xferOf_erase]
  cases xferOf a <;> rfl

@[simp] theorem eraseAP_asMasterAP (a : AP) : asMasterAP (eraseAP a) = eraseAP (asMasterAP a) := by
  obtain ⟨ctl, r, t⟩ := a
  cases ctl <;> rfl

@[simp] theorem apBytes_erase (a : Option AP) : apBytes (a.map eraseAP) = apBytes a := by
  cases a with
  | none => rfl
  | some a =>
    simp only [Option.map_some, apBytes, xferOf_erase]
    cases xferOf a <;> rfl

/-- The checks of R245 read nothing that is erased. -/
@[simp] theorem checkAll_erase (c : Cfg) (m : Nat) (x : Xfer) : checkAll c m (eraseXfer x) = checkAll c m x := rfl

/-! The components. -/

section
variable (r : ISReg) (port : Target → Resp) (a : AP) (g : Bool)

@[simp] theorem response_erase : r.erase.response port = r.response port := by
  cases h : r.held <;> simp [ISReg.response, ISReg.erase, h]

theorem candidate_erase : eraseAP (r.candidate a g) = eraseAP (r.erase.candidate (eraseAP a) g) := by
  have hready : ∀ b : AP, eraseAP { b with ready := g } = eraseAP b := fun _ => rfl
  cases h : r.held <;> simp [ISReg.candidate, ISReg.erase, h, hready]

theorem isNext_erase (x : Option Target) (gr : Option Grant) :
    (r.next g a x gr).erase = r.erase.next g (eraseAP a) x gr := by
  unfold ISReg.next
  rw [isXfer_erase]
  split
  · split
    · split <;> rfl
    · rfl
  · rfl

theorem fault_erase (c : Cfg) (m : Nat) : r.erase.fault c m g (eraseAP a) = r.fault c m g a := by
  cases h : r.held <;> cases g <;> cases hx : xferOf a <;> simp [ISReg.fault, ISReg.erase, h, hx]

end

/-- An arbiter reads of the forwarded address phase only whether it is locked, and whether it is idle. -/
theorem arbNext_erase (k : ArbKind) (a : ArbReg) (i : ArbIn) :
    a.next k { i with last := eraseAP i.last } = a.next k i := by
  cases k <;> simp [ArbReg.next, roundRobinNext, fixedPriorityNext]

section
variable (r : LBReg) (L : Nat) (a : AP) (rd : Resp)

@[simp] theorem classify_erase : r.classify L (eraseAP a) rd = r.classify L a rd := by
  simp only [LBReg.classify, xferOf_erase]
  cases xferOf a <;> rfl

theorem lb_sample_erase (cls : LBClass) (x : Option Xfer) :
    r.sample L cls (x.map eraseXfer) = r.sample L cls x := by
  cases cls <;> cases x <;> rfl

theorem lb_next_erase (en : Option Bool) : r.next L (eraseAP a) rd en = r.next L a rd en := by
  simp [LBReg.next, lb_sample_erase]

theorem lb_down_erase : eraseM2S (r.down L a rd) = eraseM2S (r.down L (eraseAP a) rd) := by
  have hctl : eraseCtl (r.down L a rd).ap.ctl = eraseCtl (r.down L (eraseAP a) rd).ap.ctl := by
    simp only [LBReg.down, classify_erase, xferOf_erase]
    cases r.classify L a rd with
    | miss => cases xferOf a <;> rfl
    | pass => exact (eraseCtl_idem a.ctl).symm
    | write => exact (eraseCtl_idem a.ctl).symm
    | _ => rfl
  rw [eraseM2S_eq_iff]
  exact ⟨by simp only [eraseAP, hctl], rfl⟩

@[simp] theorem writeSampled_erase : r.writeSampled L (eraseAP a) rd = r.writeSampled L a rd := by
  simp [LBReg.writeSampled]

end

section
variable (w : WBReg) (u : M2S) (rd : Resp)

@[simp] theorem wb_up_erase : w.erase.up rd = w.up rd := by
  cases hst : w.st <;> cases hh : w.held <;> simp [WBReg.up, WBReg.erase, hst, hh]

theorem wb_candidate_erase (a : AP) : w.erase.candidate (eraseAP a) = eraseAP (w.candidate a) := by
  cases hh : w.held <;> simp [WBReg.candidate, WBReg.erase, hh]

theorem wb_drained_erase (a : AP) (p : Bool) : WBReg.drained (eraseAP a) p = (WBReg.drained a p).erase := by
  rw [wb_drained_eq, wb_drained_eq, compatible_erase, isXfer_erase]
  split
  · rfl
  · split <;> rfl

/-- A write buffer passes down the erasure of what it would pass down. -/
theorem wb_downCtl_erase (a : AP) : w.erase.downCtl (eraseAP a) rd = eraseCtl (w.downCtl a rd) := by
  have hst : w.erase.st = w.st := rfl
  have hheld : w.erase.held = w.held.map eraseAP := rfl
  simp only [WBReg.downCtl, wb_candidate_erase, compatible_erase, hst, hheld]
  have hif : ∀ b : AP, (if compatible b then (eraseAP b).ctl else .idle) =
      eraseCtl (if compatible b then b.ctl else .idle) := fun b => by split <;> rfl
  cases w.st with
  | transparent => rfl
  | bufferedWriteFirst =>
    cases rd.status with
    | pending => exact hif a
    | _ => rfl
  | bufferedWriteAsync =>
    cases rd.status with
    | success => exact hif _
    | pending => exact hif _
    | _ => rfl
  | idleInjectionDone => cases w.held <;> rfl

theorem wb_down_erase : eraseM2S (w.down u rd) = eraseM2S (w.erase.down (eraseM2S u) rd) := by
  rw [eraseM2S_eq_iff]
  refine ⟨?_, rfl⟩
  simp only [WBReg.down, eraseAP_mk, eraseM2S, wb_downCtl_erase, eraseCtl_idem]

theorem wb_next_erase : (w.next u rd).erase = w.erase.next (eraseM2S u) rd := by
  have hst : w.erase.st = w.st := rfl
  have hheld : w.erase.held = w.held.map eraseAP := rfl
  have hap : (eraseM2S u).ap = eraseAP u.ap := rfl
  have hdp : (eraseM2S u).dp = u.dp := rfl
  simp only [WBReg.next, wb_up_erase, wb_candidate_erase, compatible_erase, isXfer_erase, wb_drained_erase, hst, hheld,
    hap, hdp, Option.map_eq_none_iff]
  cases w.st with
  | transparent => dsimp only; split <;> rfl
  | bufferedWriteFirst =>
    cases rd.status with
    | success => dsimp only; split <;> rfl
    | pending => simp only [WBReg.erase]; cases isXfer u.ap <;> rfl
    | error1 => simp only [WBReg.erase]; cases isXfer u.ap <;> rfl
    | error2 => rfl
  | bufferedWriteAsync =>
    cases rd.status with
    | success => rfl
    | pending => dsimp only; split <;> rfl
    | error1 => dsimp only; split <;> rfl
    | error2 => rfl
  | idleInjectionDone =>
    dsimp only
    split
    · cases w.held with
      | none => rfl
      | some h =>
        simp only [Option.map_some, compatible_erase]
        split <;> rfl
    · rfl

theorem wb_widthMismatch_erase (v : BusValue) : w.erase.widthMismatch v = w.widthMismatch v := by
  have hbytes : apBytes w.erase.bap = apBytes w.bap := apBytes_erase w.bap
  unfold WBReg.widthMismatch
  rw [hbytes]
  rfl

end

/-! The chain. -/

section
variable (q : SlaveRegs) (r : Resp)

@[simp] theorem adapterUp_erase (a : Adapter) : adapterUp q.erase a r = adapterUp q a r := by
  cases a with
  | lb L e => rfl
  | wb => exact wb_up_erase q.wb r

theorem adapterDown_erase (a : Adapter) (u : M2S) :
    eraseM2S (adapterDown q a u r) = eraseM2S (adapterDown q.erase a (eraseM2S u) r) := by
  cases a with
  | lb L e => exact lb_down_erase q.lb L u.ap r
  | wb => exact wb_down_erase q.wb u r

@[simp] theorem chainUp_erase (as : List Adapter) : chainUp q.erase as r = chainUp q as r := by
  induction as with
  | nil => rfl
  | cons a as ih => simp [chainUp, ih]

/-- What the links and the ports of a chain carry follows from the erased bundle at its top. -/
theorem chain_erase (p : SlaveRegs) (as : List Adapter) (u v : M2S) (hq : q.erase = p.erase)
    (hu : eraseM2S u = eraseM2S v) :
    (chainWires q as u r).map Wire.erase = (chainWires p as v r).map Wire.erase ∧
      (chainPorts q as u r).map erasePort = (chainPorts p as v r).map erasePort := by
  have hup : ∀ bs, chainUp q bs r = chainUp p bs r := fun bs => by rw [← chainUp_erase, hq, chainUp_erase]
  have hlink : ∀ (b b' : M2S) (rd : Resp), eraseM2S b = eraseM2S b' →
      Wire.erase { ap := b.ap, dp := b.dp, resp := rd } = Wire.erase { ap := b'.ap, dp := b'.dp, resp := rd } := by
    intro b b' rd hb
    obtain ⟨hap, hdp⟩ := (eraseM2S_eq_iff b b').1 hb
    simp [Wire.erase, hap, hdp]
  induction as generalizing u v with
  | nil => exact ⟨by simp [chainWires, hlink u v r hu], rfl⟩
  | cons a as ih =>
    have hdown : eraseM2S (adapterDown q a u (chainUp q as r)) = eraseM2S (adapterDown p a v (chainUp p as r)) := by
      rw [adapterDown_erase, hq, hu, hup as, ← adapterDown_erase]
    obtain ⟨hwires, hports⟩ := ih _ _ hdown
    have hadapter : adapterUp q a (chainUp q as r) = adapterUp p a (chainUp p as r) := by
      rw [← adapterUp_erase q, hq, hup as, adapterUp_erase]
    constructor
    · simp [chainWires, hwires, hadapter, hlink u v _ hu]
    · rw [hup as] at hports
      simp [chainPorts, hports, hup as, erasePort, hu]

/-- What an adapter raises, and the address phase it raises it for. -/
theorem adapterFatal_erase (p : Adapter × M2S × Resp) :
    (adapterFatal q p).map eraseAP = adapterFatal q.erase (erasePort p) := by
  obtain ⟨_ | _, u, rd⟩ := p
  · simp only [adapterFatal, erasePort, eraseM2S, writeSampled_erase]
    show _ = if q.lb.writeSampled _ u.ap rd then _ else _
    split <;> rfl
  · rfl

theorem adapterIdleResponse_erase (p : Adapter × M2S × Resp) :
    adapterIdleResponse q.erase (erasePort p) = adapterIdleResponse q p := by
  obtain ⟨_ | _, u, rd⟩ := p <;> rfl

theorem adapterWidthMismatch_erase (p : Adapter × M2S × Resp) :
    adapterWidthMismatch q.erase (erasePort p) = adapterWidthMismatch q p := by
  obtain ⟨_ | _, u, rd⟩ := p
  · rfl
  · exact wb_widthMismatch_erase q.wb u.dp

theorem adapterErrorSequence_erase (p : Adapter × M2S × Resp) :
    adapterErrorSequence q.erase (erasePort p) = adapterErrorSequence q p := by
  obtain ⟨_ | _, u, rd⟩ := p <;> rfl

/-- The registers of a chain's adapters at the edge. -/
theorem adaptersNext_erase (en : Option Bool) (ps : List (Adapter × M2S × Resp)) (acc : SlaveRegs) :
    (adaptersNext q en ps acc).erase = adaptersNext q.erase en (ps.map erasePort) acc.erase := by
  induction ps generalizing acc with
  | nil => rfl
  | cons p ps ih =>
    obtain ⟨a, u, rd⟩ := p
    cases a with
    | lb L e =>
      have hlb := lb_next_erase q.lb L u.ap rd en
      exact (ih _).trans (by simp only [List.map_cons, erasePort, eraseM2S, adaptersNext, SlaveRegs.erase, hlb])
    | wb =>
      have hwb := wb_next_erase q.wb u rd
      exact (ih _).trans (by simp only [List.map_cons, erasePort, adaptersNext, SlaveRegs.erase, hwb])

end

/-! The monitors. -/

section
variable (k : LinkMon) (w : Wire)

theorem linkMon_xfer_erase : k.erase.xfer = k.xfer.map eraseXfer := by
  cases h : k.dp <;> simp [LinkMon.xfer, LinkMon.erase, h]

theorem linkMon_widthMismatch_erase (w16 : Bool) :
    LinkMon.widthMismatch w16 k.erase w.erase = LinkMon.widthMismatch w16 k w := by
  have hwrite : k.erase.writeWidth = k.writeWidth := by
    simp only [LinkMon.writeWidth, linkMon_xfer_erase]
    cases k.xfer <;> rfl
  have hread : ∀ st, k.erase.readWidth st = k.readWidth st := by
    intro st
    simp only [LinkMon.readWidth, linkMon_xfer_erase]
    cases k.xfer <;> rfl
  unfold LinkMon.widthMismatch
  rw [hwrite, hread]
  rfl

theorem linkMon_errorSequence_erase : LinkMon.errorSequence k.erase w.erase = LinkMon.errorSequence k w := rfl

theorem linkMon_next_erase : (k.next w).erase = k.erase.next w.erase := by
  simp only [LinkMon.next, LinkMon.erase, Wire.erase, isXfer_erase]
  cases hready w.resp <;> cases isXfer w.ap <;> rfl

end

/-! Two cycles whose erasures agree. -/

/-- Two cycles that agree in all but what is erased, the first with the registers of R247 that name a slave or a master
naming one of SLAVES or MASTERS. -/
structure ErasedAlike (c d : Cycle) : Prop where
  cfg : c.st.cfg = d.st.cfg
  cycle : c.st.cycle = d.st.cycle
  resp : c.inp.resp = d.inp.resp
  lbEn : c.inp.lbEn = d.inp.lbEn
  driven : ∀ m < c.st.cfg.nm, eraseM2S (c.driven m) = eraseM2S (d.driven m)
  master : ∀ m < c.st.cfg.nm, (c.st.master m).erase = (d.st.master m).erase
  masterMon : ∀ m < c.st.cfg.nm, (c.st.masterMonitor m).erase = (d.st.masterMonitor m).erase
  slave : ∀ n < c.st.cfg.ns, (c.st.slave n).erase = (d.st.slave n).erase
  slaveMon : ∀ n < c.st.cfg.ns, ∀ j ≤ (c.st.cfg.slave n).chain.length,
    (c.st.slaveMonitor n j).erase = (d.st.slaveMonitor n j).erase
  known : ∀ m < c.st.cfg.nm, knownTarget c.st.cfg (c.st.master m).is.dpt = true
  owner : ∀ n < c.st.cfg.ns, ∀ m, (c.st.slave n).downer = some m → m < c.st.cfg.nm

theorem erasedAlike_of_sameButCarried (c d : Cycle) (hroute : RouteInvariant c.st) (hst : SameButCarried c.st d.st)
    (hinp : SameButCarriedInputs c d) : ErasedAlike c d := by
  obtain ⟨-, hmasters, howner⟩ := hroute
  obtain ⟨hcfg, hcycle, hm, hn⟩ := hst
  obtain ⟨hresp, hlbEn, hdriven⟩ := hinp
  refine ⟨hcfg, hcycle, hresp, hlbEn, fun m h => ?_, fun m h => ?_, fun m h => ?_, fun n h => ?_, fun n h j hj => ?_,
    fun m h => ?_, howner⟩
  · obtain ⟨hap, hdp⟩ := hdriven m h
    exact (eraseM2S_eq_iff _ _).2 ⟨(sameButCarried_iff _ _).1 hap, hdp⟩
  · exact (sameMaster_iff _ _).1 (hm m h).1
  · exact (sameMon_iff _ _).1 (hm m h).2
  · obtain ⟨harb, hdowner, hlb, hwb, -⟩ := hn n h
    exact (eraseSlave_eq_iff _ _).2 ⟨harb, hdowner, hlb, (sameWB_iff _ _).1 hwb⟩
  · obtain ⟨-, -, -, -, hmon⟩ := hn n h
    exact (sameMon_iff _ _).1 (hmon j hj)
  · obtain ⟨-, -, hknown, -⟩ := hmasters m h
    exact hknown

section
variable {c d : Cycle} (h : ErasedAlike c d)
include h

/-! Phase R (R362). -/

theorem slaveResp_alike (n : Nat) : c.slaveResp n = d.slaveResp n := by
  rw [Cycle.slaveResp, Cycle.slaveResp, h.resp]

theorem stageResp_alike (n : Nat) (hn : n < c.st.cfg.ns) : c.stageResp n = d.stageResp n := by
  rw [Cycle.stageResp, Cycle.stageResp, ← chainUp_erase, h.slave n hn, chainUp_erase, slaveResp_alike h, h.cfg]

theorem rdy_alike (n : Nat) (hn : n < c.st.cfg.ns) : c.rdy n = d.rdy n := by
  rw [Cycle.rdy, Cycle.rdy, stageResp_alike h n hn]

/-- The fields of a master's side that are not erased. -/
theorem master_alike (m : Nat) (hm : m < c.st.cfg.nm) :
    (c.st.master m).is.erase = (d.st.master m).is.erase ∧ (c.st.master m).is.dpt = (d.st.master m).is.dpt ∧
      (c.st.master m).dflt = (d.st.master m).dflt ∧ (c.st.master m).ddowner = (d.st.master m).ddowner := by
  have hmaster := h.master m hm
  simp only [MasterRegs.erase, MasterRegs.mk.injEq] at hmaster
  obtain ⟨his, hdflt, hddowner⟩ := hmaster
  exact ⟨his, (congrArg ISReg.dpt his :), hdflt, hddowner⟩

theorem portResp_alike (m : Nat) (hm : m < c.st.cfg.nm) (x : Target) (hx : knownTarget c.st.cfg (some x) = true) :
    c.portResp m x = d.portResp m x := by
  cases x with
  | slave n =>
    have hn : n < c.st.cfg.ns := by simpa [knownTarget] using hx
    obtain ⟨-, hdowner, -⟩ := (eraseSlave_eq_iff _ _).1 (h.slave n hn)
    rw [Cycle.portResp, Cycle.portResp, stageResp_alike h n hn, hdowner]
  | dflt =>
    obtain ⟨-, -, hdflt, hddowner⟩ := master_alike h m hm
    rw [Cycle.portResp, Cycle.portResp, hdflt, hddowner]

theorem committed_alike (m : Nat) (hm : m < c.st.cfg.nm) : c.committed m = d.committed m := by
  obtain ⟨-, hdpt, -⟩ := master_alike h m hm
  have hknown := h.known m hm
  unfold Cycle.committed ISReg.committed
  rw [← hdpt]
  cases hx : (c.st.master m).is.dpt with
  | none => rfl
  | some x => exact congrArg hready (portResp_alike h m hm x (hx ▸ hknown))

theorem resp_alike (m : Nat) (hm : m < c.st.cfg.nm) : c.resp m = d.resp m := by
  obtain ⟨his, hdpt, -⟩ := master_alike h m hm
  have hknown := h.known m hm
  have hport : (c.st.master m).is.response (c.portResp m) = (c.st.master m).is.response (d.portResp m) := by
    unfold ISReg.response
    cases (c.st.master m).is.held with
    | some a => rfl
    | none =>
      cases hx : (c.st.master m).is.dpt with
      | none => rfl
      | some x => exact portResp_alike h m hm x (hx ▸ hknown)
  rw [Cycle.resp, Cycle.resp, hport, ← response_erase, his, response_erase]

/-! Phase Q (R362). -/

theorem cand_alike (m : Nat) (hm : m < c.st.cfg.nm) : eraseAP (c.cand m) = eraseAP (d.cand m) := by
  obtain ⟨his, -⟩ := master_alike h m hm
  obtain ⟨hap, -⟩ := (eraseM2S_eq_iff _ _).1 (h.driven m hm)
  rw [Cycle.cand, Cycle.cand, candidate_erase, his, hap, committed_alike h m hm, ← candidate_erase]

theorem target_alike (m : Nat) (hm : m < c.st.cfg.nm) : c.target m = d.target m := by
  rw [Cycle.target, Cycle.target, ← targetOf_erase, cand_alike h m hm, targetOf_erase, h.cfg]

/-- Who has a target has the same in both cycles; only a master of MASTERS has one. -/
theorem target_alike_iff (m : Nat) (x : Target) : c.target m = some x ↔ d.target m = some x := by
  constructor
  · intro ht
    rwa [← target_alike h m (lt_nm_of_target c m x ht)]
  · intro ht
    rwa [target_alike h m (h.cfg ▸ lt_nm_of_target d m x ht)]

theorem reqs_alike (n : Nat) : c.reqs n = d.reqs n := by
  unfold Cycle.reqs Cycle.masterIds
  rw [h.cfg]
  refine List.filter_congr fun m _ => ?_
  rw [Bool.eq_iff_iff, isXfer_contrib, isXfer_contrib]
  exact target_alike_iff h m _

theorem own_alike (n : Nat) (hn : n < c.st.cfg.ns) : c.own n = d.own n := by
  obtain ⟨harb, hdowner, -⟩ := (eraseSlave_eq_iff _ _).1 (h.slave n hn)
  rw [Cycle.own, Cycle.own, harb, hdowner, reqs_alike h, h.cfg]

/-- A master is accepted in one cycle exactly when it is in the other. -/
theorem acc_alike (n : Nat) : c.acc n = d.acc n := by
  refine Option.ext fun o => ?_
  simp only [acc_eq_some]
  by_cases hn : n < c.st.cfg.ns
  · rw [own_alike h n hn, rdy_alike h n hn]
    by_cases ht : c.target o = some (.slave n)
    · rw [committed_alike h o (lt_nm_of_target c o _ ht), target_alike_iff h]
    · have ht' := fun hd => ht ((target_alike_iff h o _).2 hd)
      exact ⟨fun hc => absurd hc.2.1 ht, fun hd => absurd hd.2.1 ht'⟩
  · exact ⟨fun hc => absurd (lt_ns_of_own c n o hc.1) hn, fun hd => absurd (h.cfg ▸ lt_ns_of_own d n o hd.1) hn⟩

theorem portGrant_alike (m : Nat) (hm : m < c.st.cfg.nm) (x : Target) : c.portGrant m x = d.portGrant m x := by
  cases x with
  | slave n => rw [portGrant_slave, portGrant_slave, target_alike h m hm, acc_alike h n]
  | dflt =>
    obtain ⟨-, -, hdflt, -⟩ := master_alike h m hm
    rw [portGrant_dflt, portGrant_dflt, target_alike h m hm, committed_alike h m hm, hdflt]

theorem grant_alike (m : Nat) (hm : m < c.st.cfg.nm) : c.grant m = d.grant m := by
  unfold Cycle.grant
  rw [target_alike h m hm]
  cases d.target m with
  | none => rfl
  | some x => exact portGrant_alike h m hm x

theorem stageData_alike (n : Nat) (hn : n < c.st.cfg.ns) : c.stageData n = d.stageData n := by
  obtain ⟨-, hdowner, -⟩ := (eraseSlave_eq_iff _ _).1 (h.slave n hn)
  have howner := h.owner n hn
  unfold Cycle.stageData Machine.stageData
  rw [← hdowner]
  cases ho : (c.st.slave n).downer with
  | none => rfl
  | some m =>
    have hm := howner m ho
    obtain ⟨-, hdpt, -⟩ := master_alike h m hm
    obtain ⟨-, hdp⟩ := (eraseM2S_eq_iff _ _).1 (h.driven m hm)
    simp only [Cycle.writeData, ISReg.writeData, hdpt, hdp]

end

/-- A search depends on its function at the members of the list only. -/
theorem findSome?_congr_mem {α β : Type} (f g : α → Option β) (l : List α) (h : ∀ x ∈ l, f x = g x) :
    l.findSome? f = l.findSome? g := by
  induction l with
  | nil => rfl
  | cons x xs ih =>
    rw [List.findSome?_cons, List.findSome?_cons, h x List.mem_cons_self,
      ih fun y hy => h y (List.mem_cons_of_mem x hy)]

theorem map_findSome?_range_congr {α β : Type} (e : α → β) (f g : Nat → Option α) (k : Nat)
    (h : ∀ i < k, (f i).map e = (g i).map e) :
    ((List.range k).findSome? f).map e = ((List.range k).findSome? g).map e := by
  rw [List.map_findSome?, List.map_findSome?]
  exact findSome?_congr_mem _ _ _ fun i hi => h i (List.mem_range.1 hi)

/-! The searches of a stop, over the erased wires and ports. -/

theorem lineFault_erase (c : Cycle) (n : Nat) :
    (c.lineFault n).map Fault.erase =
      (((c.ports n).map erasePort).findSome? (adapterFatal (c.st.slave n).erase)).map fun ap =>
        .fatal .lbWrite c.st.cycle (.lineBuffer n) ap := by
  have hfatal : adapterFatal (c.st.slave n).erase ∘ erasePort = Option.map eraseAP ∘ adapterFatal (c.st.slave n) :=
    funext fun p => (adapterFatal_erase (c.st.slave n) p).symm
  rw [List.findSome?_map, hfatal, ← List.map_findSome?, Cycle.lineFault, Option.map_map, Option.map_map]
  rfl

theorem adapterViolation_erase (c : Cycle) (v : ViolationName) (bad : SlaveRegs → Adapter × M2S × Resp → Bool)
    (hbad : ∀ q p, bad q.erase (erasePort p) = bad q p) (n : Nat) :
    c.adapterViolation v bad n = ((c.ports n).map erasePort).findSome? fun p =>
      c.violationIf (bad (c.st.slave n).erase p) v (adapterPlace n p.1) := by
  rw [List.findSome?_map, Cycle.adapterViolation]
  refine findSome?_congr_mem _ _ _ fun p _ => ?_
  rw [Function.comp, hbad]
  rfl

theorem chainMonViolation_erase (c : Cycle) (v : ViolationName) (bad : LinkMon → Wire → Bool)
    (hbad : ∀ k w, bad (LinkMon.erase k) (Wire.erase w) = bad k w) (n : Nat) :
    c.chainMonViolation v bad n = ((c.wires n).map Wire.erase).zipIdx.findSome? fun wj =>
      c.violationIf (bad (c.st.slaveMonitor n wj.2).erase wj.1) v (.chainLink n wj.2) := by
  rw [List.zipIdx_map, List.findSome?_map, Cycle.chainMonViolation]
  refine findSome?_congr_mem _ _ _ fun wj _ => ?_
  rw [Function.comp, Prod.map_fst, Prod.map_snd, hbad]
  rfl

section
variable {c d : Cycle} (h : ErasedAlike c d)
include h

theorem stageAP_alike (n : Nat) (hn : n < c.st.cfg.ns) : eraseAP (c.stageAP n) = eraseAP (d.stageAP n) := by
  have hown := own_alike h n hn
  obtain ⟨o, ho, ht, hcm, hap⟩ | hidle := stageAP_cases c n
  · have hm := lt_nm_of_target c o _ ht
    have hctl : eraseCtl (c.cand o).ctl = eraseCtl (d.cand o).ctl := congrArg AP.ctl (cand_alike h o hm)
    rw [hap, stageAP_of_transfer d n o (hown ▸ ho) ((target_alike_iff h o _).1 ht) (committed_alike h o hm ▸ hcm),
      eraseAP_mk, eraseAP_mk, hctl]
  · obtain ⟨o, ho, ht, hcm, -⟩ | hidle' := stageAP_cases d n
    · have htc := (target_alike_iff h o _).2 ht
      have hm := lt_nm_of_target c o _ htc
      have hcand := isXfer_cand_of_target c o _ htc
      have hap := stageAP_of_transfer c n o (hown.trans ho) htc ((committed_alike h o hm).trans hcm)
      rw [hidle] at hap
      obtain ⟨x, hx⟩ := (isXfer_iff _).1 hcand
      rw [hx] at hap
      cases hap
    · rw [hidle, hidle']; rfl

theorem stageBundle_alike (n : Nat) (hn : n < c.st.cfg.ns) :
    eraseM2S { ap := c.stageAP n, dp := c.stageData n } = eraseM2S { ap := d.stageAP n, dp := d.stageData n } :=
  (eraseM2S_eq_iff _ _).2 ⟨stageAP_alike h n hn, stageData_alike h n hn⟩

theorem wires_alike (n : Nat) (hn : n < c.st.cfg.ns) :
    (c.wires n).map Wire.erase = (d.wires n).map Wire.erase := by
  rw [Cycle.wires, Cycle.wires, ← h.cfg, ← slaveResp_alike h]
  exact (chain_erase _ _ _ _ _ _ (h.slave n hn) (stageBundle_alike h n hn)).1

theorem ports_alike (n : Nat) (hn : n < c.st.cfg.ns) :
    (c.ports n).map erasePort = (d.ports n).map erasePort := by
  rw [Cycle.ports, Cycle.ports, ← h.cfg, ← slaveResp_alike h]
  exact (chain_erase _ _ _ _ _ _ (h.slave n hn) (stageBundle_alike h n hn)).2

theorem toSlave_alike (n : Nat) (hn : n < c.st.cfg.ns) : eraseM2S (c.toSlave n) = eraseM2S (d.toSlave n) := by
  have hlast : (c.wires n).getLast?.map Wire.erase = (d.wires n).getLast?.map Wire.erase := by
    rw [← List.getLast?_map, wires_alike h n hn, List.getLast?_map]
  unfold Cycle.toSlave
  generalize (c.wires n).getLast? = w at hlast
  generalize (d.wires n).getLast? = v at hlast
  cases w with
  | none =>
    cases v with
    | none => rfl
    | some v => cases hlast
  | some w =>
    cases v with
    | none => cases hlast
    | some v =>
      obtain ⟨hap, hdp, -⟩ := Wire.mk.inj (Option.some.inj hlast)
      exact (eraseM2S_eq_iff _ _).2 ⟨hap, hdp⟩

theorem masterWire_alike (m : Nat) (hm : m < c.st.cfg.nm) : (c.masterWire m).erase = (d.masterWire m).erase := by
  obtain ⟨hap, hdp⟩ := (eraseM2S_eq_iff _ _).1 (h.driven m hm)
  have hmaster : eraseAP (asMasterAP (c.driven m).ap) = eraseAP (asMasterAP (d.driven m).ap) := by
    rw [← eraseAP_asMasterAP, hap, eraseAP_asMasterAP]
  simp [Cycle.masterWire, Wire.erase, hmaster, hdp, resp_alike h m hm]

/-! The stop (R399). -/

theorem violationIf_alike (b : Bool) (v : ViolationName) (p : Place) : c.violationIf b v p = d.violationIf b v p := by
  rw [Cycle.violationIf, Cycle.violationIf, h.cycle]

theorem stageFault_alike (m : Nat) (hm : m < c.st.cfg.nm) :
    (c.stageFault m).map Fault.erase = (d.stageFault m).map Fault.erase := by
  obtain ⟨his, -⟩ := master_alike h m hm
  have hcand := cand_alike h m hm
  have hfault : (c.st.master m).is.fault c.st.cfg m (c.committed m) (c.cand m) =
      (d.st.master m).is.fault d.st.cfg m (d.committed m) (d.cand m) := by
    rw [← fault_erase, his, hcand, fault_erase, h.cfg, committed_alike h m hm]
  simp [Cycle.stageFault, hfault, Function.comp_def, Fault.erase, hcand, h.cycle]

theorem lineFault_alike (n : Nat) (hn : n < c.st.cfg.ns) :
    (c.lineFault n).map Fault.erase = (d.lineFault n).map Fault.erase := by
  rw [lineFault_erase, lineFault_erase, ports_alike h n hn, h.slave n hn, h.cycle]

/-- A violation of the adapters, for each condition that reads nothing erased. -/
theorem adapterViolation_alike (v : ViolationName) (bad : SlaveRegs → Adapter × M2S × Resp → Bool)
    (hbad : ∀ q p, bad q.erase (erasePort p) = bad q p) (n : Nat) (hn : n < c.st.cfg.ns) :
    c.adapterViolation v bad n = d.adapterViolation v bad n := by
  rw [adapterViolation_erase c v bad hbad, adapterViolation_erase d v bad hbad, ports_alike h n hn, h.slave n hn]
  simp only [violationIf_alike h]

/-- A violation of a master's link monitor, for each condition that reads nothing erased. -/
theorem masterMonViolation_alike (v : ViolationName) (bad : LinkMon → Wire → Bool)
    (hbad : ∀ k w, bad (LinkMon.erase k) (Wire.erase w) = bad k w) (m : Nat) (hm : m < c.st.cfg.nm) :
    c.masterMonViolation v bad m = d.masterMonViolation v bad m := by
  rw [Cycle.masterMonViolation, Cycle.masterMonViolation, ← hbad, h.masterMon m hm, masterWire_alike h m hm, hbad,
    violationIf_alike h]

/-- A violation of the monitors below an output stage, for each condition that reads nothing erased. -/
theorem chainMonViolation_alike (v : ViolationName) (bad : LinkMon → Wire → Bool)
    (hbad : ∀ k w, bad (LinkMon.erase k) (Wire.erase w) = bad k w) (n : Nat) (hn : n < c.st.cfg.ns) :
    c.chainMonViolation v bad n = d.chainMonViolation v bad n := by
  rw [chainMonViolation_erase c v bad hbad, chainMonViolation_erase d v bad hbad, ← wires_alike h n hn]
  refine findSome?_congr_mem _ _ _ fun wj hwj => ?_
  obtain ⟨-, hlt, -⟩ := List.mem_zipIdx hwj
  rw [List.length_map, Cycle.wires, chainWires_length, Nat.zero_add] at hlt
  rw [h.slaveMon n hn wj.2 (Nat.le_of_lt_succ hlt), violationIf_alike h]

theorem missingGrant_alike (m : Nat) (hm : m < c.st.cfg.nm) : c.missingGrant m = d.missingGrant m := by
  rw [Cycle.missingGrant, Cycle.missingGrant, target_alike h m hm, grant_alike h m hm, violationIf_alike h]

theorem strayResponse_alike (n : Nat) (hn : n < c.st.cfg.ns) : c.strayResponse n = d.strayResponse n := by
  obtain ⟨-, hdowner, -⟩ := (eraseSlave_eq_iff _ _).1 (h.slave n hn)
  rw [Cycle.strayResponse, Cycle.strayResponse, hdowner, stageResp_alike h n hn, violationIf_alike h]

theorem foreignMaster_alike (n : Nat) : c.foreignMaster n = d.foreignMaster n := by
  rw [Cycle.foreignMaster, Cycle.foreignMaster, reqs_alike h, h.cfg, violationIf_alike h]

theorem stop_alike : c.stop.map Fault.erase = d.stop.map Fault.erase := by
  have hsearch := map_findSome?_range_congr Fault.erase
  simp only [Cycle.stop, Option.orElse_eq_orElse, Option.orElse_eq_or, Option.map_or, Cycle.masterIds, Cycle.slaveIds,
    ← h.cfg]
  rw [hsearch _ _ _ (stageFault_alike h), hsearch _ _ _ (lineFault_alike h),
    hsearch _ _ _ fun n hn => congrArg _ (strayResponse_alike h n hn),
    hsearch _ _ _ fun n hn => congrArg _ (adapterViolation_alike h _ _ adapterIdleResponse_erase n hn),
    hsearch _ _ _ fun m hm => congrArg _ (missingGrant_alike h m hm),
    hsearch _ _ _ fun n hn => congrArg _ (adapterViolation_alike h _ _ adapterWidthMismatch_erase n hn),
    hsearch _ _ _ fun m hm => congrArg _ (masterMonViolation_alike h _ _ (linkMon_widthMismatch_erase · · _) m hm),
    hsearch _ _ _ fun n hn => congrArg _ (chainMonViolation_alike h _ _ (linkMon_widthMismatch_erase · · _) n hn),
    hsearch _ _ _ fun n _ => congrArg _ (foreignMaster_alike h n),
    hsearch _ _ _ fun n hn => congrArg _ (adapterViolation_alike h _ _ adapterErrorSequence_erase n hn),
    hsearch _ _ _ fun m hm => congrArg _ (masterMonViolation_alike h _ _ linkMon_errorSequence_erase m hm),
    hsearch _ _ _ fun n hn => congrArg _ (chainMonViolation_alike h _ _ linkMon_errorSequence_erase n hn)]

/-! The edge. -/

theorem nextMaster_alike (m : Nat) (hm : m < c.st.cfg.nm) : (c.nextMaster m).erase = (d.nextMaster m).erase := by
  obtain ⟨his, -, hdflt, hddowner⟩ := master_alike h m hm
  have hnext : (c.nextMaster m).is.erase = (d.nextMaster m).is.erase := by
    rw [nextMaster_is, nextMaster_is, isNext_erase, isNext_erase, his, committed_alike h m hm, cand_alike h m hm,
      target_alike h m hm, grant_alike h m hm]
  have hacc : c.dfltAcc m = d.dfltAcc m := by
    rw [Cycle.dfltAcc, Cycle.dfltAcc, portGrant_alike h m hm]
  simp only [MasterRegs.erase, hnext, nextMaster_dflt, nextMaster_ddowner, hdflt, hddowner, hacc,
    portGrant_alike h m hm]

theorem nextArb_alike (n : Nat) (hn : n < c.st.cfg.ns) : (c.nextSlave n).arb = (d.nextSlave n).arb := by
  obtain ⟨harb, hdowner, -⟩ := (eraseSlave_eq_iff _ _).1 (h.slave n hn)
  have hin : { c.arbIn n with last := eraseAP (c.arbIn n).last } =
      { d.arbIn n with last := eraseAP (d.arbIn n).last } := by
    simp only [Cycle.arbIn, reqs_alike h, rdy_alike h n hn, stageAP_alike h n hn, hdowner, h.cfg]
  rw [nextSlave_arb, nextSlave_arb, ← arbNext_erase, hin, arbNext_erase, harb, h.cfg]

theorem nextSlave_alike (n : Nat) (hn : n < c.st.cfg.ns) : (c.nextSlave n).erase = (d.nextSlave n).erase := by
  have hslave := h.slave n hn
  have hlbEn : c.lbEn n = d.lbEn n := by rw [Cycle.lbEn, Cycle.lbEn, h.lbEn]
  obtain ⟨-, hdowner, hlb, hwb⟩ := (eraseSlave_eq_iff _ _).1 hslave
  have harb := nextArb_alike h n hn
  rw [nextSlave_arb, nextSlave_arb] at harb
  unfold Cycle.nextSlave
  rw [adaptersNext_erase, adaptersNext_erase, hslave, ports_alike h n hn, hlbEn]
  simp only [SlaveRegs.erase, harb, hdowner, hlb, hwb, acc_alike h, rdy_alike h n hn]

theorem edge_masterMonitor_alike (m : Nat) (hm : m < c.st.cfg.nm) :
    (c.edge.masterMonitor m).erase = (d.edge.masterMonitor m).erase := by
  rw [edge_masterMonitor c m hm, edge_masterMonitor d m (h.cfg ▸ hm), linkMon_next_erase, linkMon_next_erase,
    h.masterMon m hm, masterWire_alike h m hm]

theorem edge_slaveMonitor_alike (n j : Nat) (hn : n < c.st.cfg.ns) (hj : j ≤ (c.st.cfg.slave n).chain.length) :
    (c.edge.slaveMonitor n j).erase = (d.edge.slaveMonitor n j).erase := by
  have hlen : j < (c.wires n).length := by
    rw [Cycle.wires, chainWires_length]
    exact Nat.lt_succ_of_le hj
  have hwires := wires_alike h n hn
  have hlen' : j < (d.wires n).length := by
    rw [← List.length_map (f := Wire.erase), ← hwires, List.length_map]
    exact hlen
  have hwire : ((c.wires n)[j]).erase = ((d.wires n)[j]).erase := by
    rw [← List.getElem_map Wire.erase, ← List.getElem_map Wire.erase]
    · simp only [hwires]
    · simpa using hlen'
    · simpa using hlen
  rw [edge_slaveMonitor_of_wire c n j _ hn (List.getElem?_eq_getElem hlen),
    edge_slaveMonitor_of_wire d n j _ (h.cfg ▸ hn) (List.getElem?_eq_getElem hlen'), linkMon_next_erase,
    linkMon_next_erase, h.slaveMon n hn j hj, hwire]

theorem edge_alike : SameButCarried c.edge d.edge := by
  refine ⟨h.cfg, congrArg (· + 1) h.cycle, fun m hm => ⟨?_, ?_⟩, fun n hn => ?_⟩
  · rw [edge_master c m hm, edge_master d m (h.cfg ▸ hm)]
    exact (sameMaster_iff _ _).2 (nextMaster_alike h m hm)
  · exact (sameMon_iff _ _).2 (edge_masterMonitor_alike h m hm)
  · rw [edge_slave c n hn, edge_slave d n (h.cfg ▸ hn)]
    obtain ⟨harb, hdowner, hlb, hwb⟩ := (eraseSlave_eq_iff _ _).1 (nextSlave_alike h n hn)
    exact ⟨harb, hdowner, hlb, (sameWB_iff _ _).2 hwb,
      fun j hj => (sameMon_iff _ _).2 (edge_slaveMonitor_alike h n j hn hj)⟩

end

/-- Settles O30: the two cycles' erasures agree, so every signal that reads nothing erased is the same, and what is
carried differs in what is erased alone. -/
theorem carriedBitsDecideNothing : Obligations.CarriedBitsDecideNothing := by
  intro c d hroute hst hinp
  have h := erasedAlike_of_sameButCarried c d hroute hst hinp
  refine ⟨fun m hm => ⟨resp_alike h m hm, committed_alike h m hm, grant_alike h m hm⟩, fun n hn => ?_,
    (sameStop_iff _ _).2 (stop_alike h), edge_alike h⟩
  obtain ⟨hap, hdp⟩ := (eraseM2S_eq_iff _ _).1 (toSlave_alike h n hn)
  exact ⟨acc_alike h n, own_alike h n hn, hdp, (sameButCarried_iff _ _).2 hap⟩

end Sys2Proof.Machine
end

section
/-! PROOFS. The integer a data carrier stands for (20_memory.md R72), and the 1 KB check that no aligned transfer can
fail (R76). -/

namespace Sys2Proof.Machine

/-! Little-endian integers (R72): every fact is an induction on the bytes, the first byte being the units. -/

@[simp] theorem leBytes_length (n v : Nat) : (leBytes n v).length = n := by
  induction n generalizing v with
  | zero => rfl
  | succ n ih => simp [leBytes, ih]

theorem leNat_eq_sum (b : List Byte) :
    leNat b = ((List.range b.length).map fun i => (b.getD i 0).toNat * 256 ^ i).sum := by
  induction b with
  | nil => rfl
  | cons b bs ih =>
    rw [leNat, ih, ← List.sum_map_mul_left, List.length_cons, List.range_succ_eq_map]
    simp [Function.comp_def, Nat.pow_succ', Nat.mul_left_comm]

theorem leBytes_getD_toNat (n v i : Nat) (hi : i < n) : ((leBytes n v).getD i 0).toNat = v / 256 ^ i % 256 := by
  induction n generalizing v i with
  | zero => exact absurd hi (Nat.not_lt_zero i)
  | succ n ih =>
    cases i with
    | zero => simp [leBytes]
    | succ i =>
      calc ((leBytes (n + 1) v).getD (i + 1) 0).toNat = v / 256 / 256 ^ i % 256 := ih _ _ (Nat.lt_of_succ_lt_succ hi)
        _ = v / 256 ^ (i + 1) % 256 := by rw [Nat.div_div_eq_div_mul, Nat.pow_succ']

theorem leNat_leBytes (n v : Nat) (hv : v < 256 ^ n) : leNat (leBytes n v) = v := by
  induction n generalizing v with
  | zero => exact (Nat.lt_one_iff.1 hv).symm
  | succ n ih =>
    have hquot : v / 256 < 256 ^ n := Nat.div_lt_of_lt_mul (by rwa [← Nat.pow_succ'])
    calc leNat (leBytes (n + 1) v) = v % 256 + 256 * (v / 256) := by simp [leBytes, leNat, ih _ hquot]
      _ = v := Nat.mod_add_div v 256

/-- Settles O7: each clause is an induction on the bytes of the carrier. -/
theorem littleEndianIntegers : Obligations.LittleEndianIntegers :=
  ⟨leNat_eq_sum, fun n v i hi => ⟨leBytes_length n v, leBytes_getD_toNat n v i hi⟩,
    fun n v hv => congrArg some (leNat_leBytes n v hv)⟩

/-! The 1 KB check (R76). A transfer's length divides every larger power of two, so an aligned one lies inside one block
of that size: blocks of 1024 bytes, and the whole address space of `2 ^ 32`. -/

theorem sizeBytes_pos (sz : SizeCode) : 0 < sizeBytes sz := Nat.two_pow_pos _

theorem aligned_fits_block (sz : SizeCode) (a k : Nat) (hsz : sz.toNat ≤ k) (haligned : a % sizeBytes sz = 0) :
    a % 2 ^ k + sizeBytes sz ≤ 2 ^ k :=
  mod_add_le_of_dvd _ _ _ (Nat.pow_dvd_pow 2 hsz) (Nat.dvd_of_mod_eq_zero haligned) (Nat.two_pow_pos k)

theorem aligned_same_1KB (sz : SizeCode) (a : Nat) (hsz : sz.toNat ≤ 4) (haligned : a % sizeBytes sz = 0) :
    a / 1024 = (a + sizeBytes sz - 1) / 1024 := by
  have hpos := sizeBytes_pos sz
  have hblock := aligned_fits_block sz a 10 (by omega) haligned
  omega

theorem aligned_no_wrap (sz : SizeCode) (a : Addr) (hsz : sz.toNat ≤ 4) (haligned : a.toNat % sizeBytes sz = 0) :
    a.toNat + sizeBytes sz ≤ 2 ^ 32 := by
  have hblock := aligned_fits_block sz a.toNat 32 (by omega) haligned
  rwa [Nat.mod_eq_of_lt a.isLt] at hblock

/-- The check for 1 KB comes after those for the size and the alignment (R121), and fails on a crossing alone. -/
theorem checkXfer_boundary1KB (w16 : Bool) (link : Nat) (x : Xfer) (h : checkXfer w16 link x = some .boundary1KB) :
    x.size.toNat ≤ 4 ∧ x.addr.toNat % sizeBytes x.size = 0 ∧
      x.addr.toNat / 1024 ≠ (x.addr.toNat + sizeBytes x.size - 1) / 1024 := by
  unfold checkXfer at h
  split_ifs at h with _ _ hsize _ haligned hcross
  all_goals cases h
  exact ⟨by omega, haligned, hcross⟩

/-- Settles O40: an aligned transfer lies inside one block of every size that its length divides, and the 1 KB check is
reached by aligned transfers only. -/
theorem alignedNeverCrosses1KB : Obligations.AlignedNeverCrosses1KB := by
  refine fun w16 link x => ⟨fun hsz haligned => ?_, fun h => ?_⟩
  · exact ⟨aligned_same_1KB _ _ hsz haligned, aligned_no_wrap _ _ hsz haligned⟩
  · obtain ⟨hsz, haligned, hcross⟩ := checkXfer_boundary1KB w16 link x h
    exact hcross (aligned_same_1KB _ _ hsz haligned)

end Sys2Proof.Machine
end

section
/-! PROOFS. The encoding of the messages (30_encoding.md R110 to R125): what the decoder reads of each control word, that it
is inverse to the encoder, and that it takes the row of the opcode table. -/

namespace Sys2Proof.Machine

/-! Codes by value. -/

theorem trans_cases (t : BitVec 2) : t = 0 ∨ t = 1 ∨ t = 2 ∨ t = 3 := by
  revert t; decide

theorem code_cases (x : BitVec 3) : x = 0 ∨ x = 1 ∨ x = 2 ∨ x = 3 ∨ x = 4 ∨ x = 5 ∨ x = 6 ∨ x = 7 := by
  revert x; decide

/-! The data carrier (R119): a payload is the integer of its bytes (R72), so both directions are facts about `leBytes` and
`leNat`. -/

theorem payloadBytes_eq_leBytes (n : Nat) (d : BitVec 128) : payloadBytes n d = leBytes n d.toNat := by
  refine List.ext_getElem (by simp [payloadBytes]) fun i hi hi' => BitVec.eq_of_toNat_eq ?_
  have hbyte := leBytes_getD_toNat n d.toNat i (by simpa using hi')
  rw [List.getD_eq_getElem _ _ hi'] at hbyte
  rw [hbyte]
  simp [payloadBytes, Nat.shiftRight_eq_div_pow, Nat.pow_mul]

theorem leNat_leBytes_mod (n v : Nat) : leNat (leBytes n v) = v % 256 ^ n := by
  induction n generalizing v with
  | zero => exact (Nat.mod_one v).symm
  | succ n ih => simp [leBytes, leNat, ih, Nat.pow_succ', Nat.mod_mul]

theorem leNat_lt (b : List Byte) : leNat b < 256 ^ b.length := by
  induction b with
  | nil => exact Nat.one_pos
  | cons b bs ih =>
    rw [leNat, List.length_cons, Nat.pow_succ']
    omega

theorem leBytes_leNat (b : List Byte) : leBytes b.length (leNat b) = b := by
  induction b with
  | nil => rfl
  | cons b bs ih =>
    have hquot : (b.toNat + 256 * leNat bs) / 256 = leNat bs := by omega
    simp [leBytes, leNat, hquot, ih, BitVec.ofNat_add, BitVec.ofNat_mul]

/-- The payload has room for sixteen bytes. -/
theorem bytesPayload_toNat (b : List Byte) (h : b.length ≤ 16) : (bytesPayload b).toNat = leNat b := by
  induction b with
  | nil => rfl
  | cons b bs ih =>
    have hlen : bs.length ≤ 15 := Nat.le_of_succ_le_succ h
    have hlt : leNat bs < 256 ^ 15 := (leNat_lt bs).trans_le (Nat.pow_le_pow_right (by decide) hlen)
    have hshift : leNat bs <<< 8 % 2 ^ 128 = leNat bs <<< 8 := Nat.mod_eq_of_lt (by omega)
    rw [bytesPayload, leNat, BitVec.toNat_or, BitVec.toNat_shiftLeft, ih (by omega), hshift,
      BitVec.toNat_setWidth_of_le (by decide), ← Nat.shiftLeft_add_eq_or_of_lt b.isLt]
    omega

theorem payloadBytes_bytesPayload (b : List Byte) (h : b.length ≤ 16) :
    payloadBytes b.length (bytesPayload b) = b := by
  rw [payloadBytes_eq_leBytes, bytesPayload_toNat b h, leBytes_leNat]

theorem wf_bytes_iff (b : List Byte) : (BusValue.bytes b).wf = true ↔ b.length ∈ [1, 2, 4, 8, 16] := by
  simp [BusValue.wf, or_assoc]

/-- The three answers of the width tag (R119). -/
theorem decodeBusValue_cases (wt : BitVec 3) (d : BitVec 128) :
    (wt ≠ 6 ∧ wt ≠ 7 ∧ decodeBusValue wt d = .ok .absent) ∨
    (wt ≠ 6 ∧ wt ≠ 7 ∧ ∃ n ∈ [1, 2, 4, 8, 16], decodeBusValue wt d = .ok (.bytes (payloadBytes n d))) ∨
    ((wt = 6 ∨ wt = 7) ∧ decodeBusValue wt d = .error (.reservedWidthTag wt)) := by
  obtain rfl | rfl | rfl | rfl | rfl | rfl | rfl | rfl := code_cases wt
  · exact .inl ⟨by decide, by decide, rfl⟩
  · exact .inr (.inl ⟨by decide, by decide, 1, by decide, rfl⟩)
  · exact .inr (.inl ⟨by decide, by decide, 2, by decide, rfl⟩)
  · exact .inr (.inl ⟨by decide, by decide, 4, by decide, rfl⟩)
  · exact .inr (.inl ⟨by decide, by decide, 8, by decide, rfl⟩)
  · exact .inr (.inl ⟨by decide, by decide, 16, by decide, rfl⟩)
  · exact .inr (.inr ⟨.inl rfl, rfl⟩)
  · exact .inr (.inr ⟨.inr rfl, rfl⟩)

theorem decodeBusValue_encodeBusValue (v : BusValue) (h : v.wf = true) :
    decodeBusValue (encodeBusValue v).1 (encodeBusValue v).2 = .ok v := by
  cases v with
  | absent => rfl
  | bytes b =>
    have hlen := (wf_bytes_iff b).1 h
    have hbytes := payloadBytes_bytesPayload b (by simp at hlen; omega)
    simp only [List.mem_cons, List.not_mem_nil, or_false] at hlen
    obtain hn | hn | hn | hn | hn := hlen <;>
      · rw [hn] at hbytes
        simp [encodeBusValue, decodeBusValue, hn, hbytes]

/-! The control word (R111 to R116): what the decoder answers, branch by branch of the tests on `HSEL` and `HTRANS`. -/

/-- The operands a control word gives a transfer command. -/
def cwOperands (cw : ControlWord) (addr : Addr) (dp : BusValue) : Cmd :=
  { ready := cw.getLsbD 15, prot := cwProt cw, addr := addr, dp := dp }

theorem cwOperands_encodeCW (t : BitVec 2) (w : Bool) (sz : SizeCode) (b : BurstCode) (l : Bool) (c : Cmd) :
    cwOperands (encodeCW t w sz b l c) c.addr c.dp = c := by
  rw [cwOperands, encodeCW_ready, encodeCW_prot]

section
variable (cw : ControlWord) (addr : Addr) (dp : BusValue)

theorem decodeCommand_not_selected (hsel : cw.getLsbD 0 = false) :
    decodeCommand cw addr dp = .nosel (cw.getLsbD 15) dp := by
  rw [decodeCommand, if_pos hsel]

variable (hsel : cw.getLsbD 0 = true)
include hsel

theorem decodeCommand_idle (ht : cwTrans cw = 0) : decodeCommand cw addr dp = .idle (cw.getLsbD 15) dp := by
  simp [decodeCommand, hsel, ht]

theorem decodeCommand_busy (ht : cwTrans cw = 1) :
    decodeCommand cw addr dp =
      .busy (cw.getLsbD 3) (cwSize cw) (cwBurst cw) (cw.getLsbD 14) (cwOperands cw addr dp) := by
  simp [decodeCommand, hsel, ht, cwOperands]

theorem decodeCommand_nonseq (ht : cwTrans cw = 2) :
    decodeCommand cw addr dp =
      decodeNonseq (cwBurst cw) (cw.getLsbD 14) (cwSize cw) (cw.getLsbD 3) (cwOperands cw addr dp) := by
  simp [decodeCommand, hsel, ht, cwOperands]

theorem decodeCommand_seq (ht : cwTrans cw = 3) :
    decodeCommand cw addr dp =
      .seq (cw.getLsbD 3) (cwSize cw) (cwBurst cw) (cw.getLsbD 14) (cwOperands cw addr dp) := by
  simp [decodeCommand, hsel, ht, cwOperands]

/-- `decodeCtl` of a selected word that is not IDLE, its kind given. -/
theorem decodeCtl_transfer (k : Kind) (ht : cwTrans cw ≠ 0)
    (hk : k = if cwTrans cw = 2 then .single else if cwTrans cw = 1 then .busy else .seq) :
    ({ ap := decodeCtl cw addr, dp := dp } : M2S) =
      xferBundle k (cw.getLsbD 3) (cwSize cw) (cwBurst cw) (cw.getLsbD 14) (cwOperands cw addr dp) := by
  simp only [decodeCtl, xferBundle, cwOperands, hsel, ht, hk, Bool.true_eq_false, if_false]

end

/-! A NONSEQ word: the burst code decides, then the lock, then the size (R121, R123). -/

theorem commandBundle_decodeNonseq (b : BurstCode) (l : Bool) (sz : SizeCode) (w : Bool) (c : Cmd) :
    commandBundle (decodeNonseq b l sz w c) = some (xferBundle .single w sz b l c) := by
  obtain rfl | rfl | rfl | rfl | rfl | rfl | rfl | rfl := code_cases b
  case inl =>
    cases l with
    | true => rfl
    | false => obtain rfl | rfl | rfl | rfl | rfl | rfl | rfl | rfl := code_cases sz <;> cases w <;> rfl
  all_goals rfl

/-- The bundle of the decoded command is the address phase of R120, with the write data beside it. -/
theorem commandBundle_decodeCommand (cw : ControlWord) (addr : Addr) (dp : BusValue) :
    commandBundle (decodeCommand cw addr dp) = some { ap := decodeCtl cw addr, dp := dp } := by
  cases hsel : cw.getLsbD 0 with
  | false =>
    rw [decodeCommand_not_selected cw addr dp hsel]
    rw [decodeCtl, if_pos hsel]
    rfl
  | true =>
    obtain ht | ht | ht | ht := trans_cases (cwTrans cw)
    · rw [decodeCommand_idle cw addr dp hsel ht]
      rw [decodeCtl, if_neg (by simp only [hsel, Bool.true_eq_false, not_false_eq_true]), if_pos ht]
      rfl
    · rw [decodeCommand_busy cw addr dp hsel ht,
        decodeCtl_transfer cw addr dp hsel .busy (by simp [ht]) (by simp [ht])]
      rfl
    · rw [decodeCommand_nonseq cw addr dp hsel ht,
        decodeCtl_transfer cw addr dp hsel .single (by simp [ht]) (by simp [ht])]
      exact commandBundle_decodeNonseq _ _ _ _ _
    · rw [decodeCommand_seq cw addr dp hsel ht,
        decodeCtl_transfer cw addr dp hsel .seq (by simp [ht]) (by simp [ht])]
      rfl

/-! Decoding an encoding. -/

theorem decode_commandBits (cw : ControlWord) (addr : Addr) (dp : BusValue) (hdp : dp.wf = true) :
    decode (commandBits cw addr dp) = .ok (decodeCommand cw addr dp) := by
  simp [decode, commandBits, decodeBusValue_encodeBusValue dp hdp, Except.map]

theorem decode_responseBits (rw : BitVec 2) (data : BusValue) (hdata : data.wf = true) :
    decode (responseBits rw data) = .ok (decodeResponse rw data) := by
  simp [decode, responseBits, decodeBusValue_encodeBusValue data hdata, Except.map]

theorem decode_nonseqBits (w : Bool) (sz : SizeCode) (b : BurstCode) (l : Bool) (c : Cmd) (hdp : c.dp.wf = true) :
    decode (nonseqBits w sz b l c) = .ok (decodeNonseq b l sz w c) := by
  rw [nonseqBits, decode_commandBits _ _ _ hdp, decodeCommand_nonseq _ _ _ (encodeCW_sel ..) (encodeCW_trans ..),
    cwOperands_encodeCW, encodeCW_burst, encodeCW_lock, encodeCW_size, encodeCW_write]

/-- Settles O1, format by format; a NONSEQ row is the one `decodeNonseq` names for the row's own codes. -/
theorem decodeEncodeRoundTrip : Obligations.DecodeEncodeRoundTrip := by
  intro i hwf
  cases i with
  | nosel r dp =>
    rw [encode, decode_commandBits _ _ _ hwf, decodeCommand_not_selected]
    all_goals cases r <;> rfl
  | idle r dp =>
    rw [encode, decode_commandBits _ _ _ hwf, decodeCommand_idle]
    all_goals cases r <;> rfl
  | busy w sz b l c =>
    rw [encode, decode_commandBits _ _ _ hwf, decodeCommand_busy _ _ _ (encodeCW_sel ..) (encodeCW_trans ..),
      cwOperands_encodeCW, encodeCW_burst, encodeCW_lock, encodeCW_size, encodeCW_write]
  | seq w sz b l c =>
    rw [encode, decode_commandBits _ _ _ hwf, decodeCommand_seq _ _ _ (encodeCW_sel ..) (encodeCW_trans ..),
      cwOperands_encodeCW, encodeCW_burst, encodeCW_lock, encodeCW_size, encodeCW_write]
  | success data | pending data | error1 data | error2 data => exact decode_responseBits _ data hwf
  | grant | deny => rfl
  | burst1 w sz l c | burst2 w sz l c | burst3 w sz l c | burst4 w sz l c | burst5 w sz l c | burst6 w sz l c
  | burst7 w sz l c => exact decode_nonseqBits w sz _ l c hwf
  | lock w sz c => exact decode_nonseqBits w sz 0 true c hwf
  | size5 w c | size6 w c | size7 w c => exact decode_nonseqBits w _ 0 false c hwf
  | rdB c | rdH c | rdW c | rdD c | rdQ c => exact decode_nonseqBits false _ 0 false c hwf
  | wrB c | wrH c | wrW c | wrD c | wrQ c => exact decode_nonseqBits true _ 0 false c hwf

/-- Settles O2: a command runs the cycle that drives its bundle, and the bundle of a decoded word is `decodeCtl`'s. -/
theorem controlWordDrivesItsAddressPhase : Obligations.ControlWordDrivesItsAddressPhase := fun cw addr dp s =>
  exec_of_commandBundle _ _ s (commandBundle_decodeCommand cw addr dp)

/-! Ignored bits (R125). -/

/-- `CW[2:0]` is `HTRANS` above `HSEL` (R111). -/
theorem sel_and_trans_of_low_bits (cw : ControlWord) (h : cw.extractLsb' 0 3 = 1) :
    cw.getLsbD 0 = true ∧ cwTrans cw = 0 := by
  have hsel : cw.getLsbD 0 = (cw.extractLsb' 0 3).getLsbD 0 := by simp
  have htrans : cwTrans cw = (cw.extractLsb' 0 3).extractLsb' 1 2 := by
    rw [BitVec.extractLsb'_extractLsb'_of_le (by decide)]; rfl
  rw [hsel, htrans, h]
  decide

/-- Settles O4: a NOSEL and an IDLE are decoded from their `CW[15]` and the write data alone. -/
theorem ignoredBitsHaveNoEffect : Obligations.IgnoredBitsHaveNoEffect := by
  intro cw cw' addr addr' dp hready
  constructor
  · intro hsel hsel'
    rw [decodeCommand_not_selected cw addr dp hsel, decodeCommand_not_selected cw' addr' dp hsel', hready]
  · intro hlow hlow'
    obtain ⟨hsel, htrans⟩ := sel_and_trans_of_low_bits cw hlow
    obtain ⟨hsel', htrans'⟩ := sel_and_trans_of_low_bits cw' hlow'
    rw [decodeCommand_idle cw addr dp hsel htrans, decodeCommand_idle cw' addr' dp hsel' htrans', hready]

/-! Width tags (R119, R124). -/

theorem decodeBusValue_isOk_iff (wt : BitVec 3) (d : BitVec 128) :
    (∃ v, decodeBusValue wt d = .ok v) ↔ wt ≠ 6 ∧ wt ≠ 7 := by
  obtain ⟨h6, h7, hd⟩ | ⟨h6, h7, n, -, hd⟩ | ⟨hwt, hd⟩ := decodeBusValue_cases wt d
  · exact iff_of_true ⟨_, hd⟩ ⟨h6, h7⟩
  · exact iff_of_true ⟨_, hd⟩ ⟨h6, h7⟩
  · refine iff_of_false ?_ fun hne => hwt.elim hne.1 hne.2
    rintro ⟨v, hv⟩
    rw [hd] at hv
    cases hv

theorem exists_map_eq_ok {ε α β : Type} (e : Except ε α) (f : α → β) :
    (∃ y, e.map f = .ok y) ↔ ∃ x, e = .ok x := by
  cases e <;> simp [Except.map]

/-- A decoded carrier has a width of R36 and the integer of its payload's low bytes (R72). -/
theorem carrier_of_decodeBusValue (wt : BitVec 3) (d : BitVec 128) (v : BusValue) (h : decodeBusValue wt d = .ok v) :
    v.wf = true ∧ busToNat v = (widthOf v).map fun n => d.toNat % 256 ^ n := by
  obtain ⟨-, -, hd⟩ | ⟨-, -, n, hn, hd⟩ | ⟨-, hd⟩ := decodeBusValue_cases wt d <;> rw [hd] at h <;> cases h
  · exact ⟨rfl, rfl⟩
  · have hlen := payloadBytes_length n d
    refine ⟨(wf_bytes_iff _).2 (by rwa [hlen]), ?_⟩
    rw [busToNat, widthOf, hlen, payloadBytes_eq_leBytes, leNat_leBytes_mod]
    rfl

/-- Settles O6: a message is refused exactly where its width tag is, whatever its other bits. -/
theorem widthTagsAndPayload : Obligations.WidthTagsAndPayload :=
  ⟨fun b => (exists_map_eq_ok _ _).trans (decodeBusValue_isOk_iff b.wt b.d),
    fun b => (exists_map_eq_ok _ _).trans (decodeBusValue_isOk_iff b.wt b.d), carrier_of_decodeBusValue⟩

/-- Settles O5, word by word. -/
theorem specWordsDecode : Obligations.SpecWordsDecode :=
  ⟨rfl, rfl, rfl, rfl, rfl, rfl, rfl, rfl, rfl, rfl, rfl, rfl, rfl, rfl⟩

/-! The opcode table (R123). Its patterns exclude each other, so the first row a word has is the only one, and it is enough
to find the row of what the word decodes to. -/

/-- A word matches both rows only if their matches agree where both masks look. -/
theorem commandRows_exclusive :
    ∀ r ∈ commandRows, ∀ q ∈ commandRows, r.2.2 &&& q.2.1 = q.2.2 &&& r.2.1 → q = r := by decide

theorem firstRow_of_mem (cw : ControlWord) (r : CommandRow × ControlWord × ControlWord) (hr : r ∈ commandRows)
    (hcw : cw &&& r.2.1 = r.2.2) : firstRow cw = some r.1 := by
  cases hfind : commandRows.find? fun r => cw &&& r.2.1 == r.2.2 with
  | none => simpa [hcw] using List.find?_eq_none.1 hfind r hr
  | some q =>
    have hcq : cw &&& q.2.1 = q.2.2 := by simpa using List.find?_some hfind
    have hagree : r.2.2 &&& q.2.1 = q.2.2 &&& r.2.1 := by
      rw [← hcw, ← hcq, BitVec.and_assoc, BitVec.and_assoc, BitVec.and_comm q.2.1]
    rw [firstRow, hfind, commandRows_exclusive r hr q (List.mem_of_find?_eq_some hfind) hagree]
    rfl

/-- The table has a row for the instruction, whose mask and match the word has. -/
def HasRow (cw : ControlWord) (i : Instr) : Prop :=
  ∃ r ∈ commandRows, i.commandRow = some r.1 ∧ cw &&& r.2.1 = r.2.2

theorem commandRow_eq_firstRow (cw : ControlWord) (i : Instr) (h : HasRow cw i) :
    i.commandRow = firstRow cw ∧ (firstRow cw).isSome = true := by
  obtain ⟨r, hr, hrow, hcw⟩ := h
  rw [hrow, firstRow_of_mem cw r hr hcw]
  exact ⟨rfl, rfl⟩

/-- A selected word with the operand bits `CW[15]` and `CW[13:10]` zero: its opcode bits alone (R123). -/
def opcodeWord (t : BitVec 2) (w : Bool) (sz : SizeCode) (b : BurstCode) (l : Bool) : ControlWord :=
  BitVec.ofBool false ++ BitVec.ofBool l ++ (0 : BitVec 4) ++ b ++ sz ++ BitVec.ofBool w ++ t ++ (1 : BitVec 1)

theorem encodeCW_and_opcodeWord (t t' : BitVec 2) (w w' : Bool) (sz sz' : SizeCode) (b b' : BurstCode) (l l' : Bool)
    (c : Cmd) :
    encodeCW t w sz b l c &&& opcodeWord t' w' sz' b' l' =
      opcodeWord (t &&& t') (w && w') (sz &&& sz') (b &&& b') (l && l') := by
  refine BitVec.and_append.trans ?_
  simp only [BitVec.and_append, BitVec.ofBool_and_ofBool, Bool.and_false, BitVec.ofNat_eq_ofNat, BitVec.and_zero,
    BitVec.and_self]
  rfl

/-! Each mask of the table but NOSEL's keeps some fields whole, and drops the others. -/

section
variable (t : BitVec 2) (w : Bool) (sz : SizeCode) (b : BurstCode) (l : Bool) (c : Cmd)

theorem encodeCW_and_trans : encodeCW t w sz b l c &&& 0x0007 = opcodeWord t false 0 0 false := by
  refine (encodeCW_and_opcodeWord t (.allOnes 2) w false sz 0 b 0 l false c).trans ?_
  simp only [BitVec.and_allOnes, BitVec.ofNat_eq_ofNat, BitVec.and_zero, Bool.and_false]

theorem encodeCW_and_burst : encodeCW t w sz b l c &&& 0x0387 = opcodeWord t false 0 b false := by
  refine (encodeCW_and_opcodeWord t (.allOnes 2) w false sz 0 b (.allOnes 3) l false c).trans ?_
  simp only [BitVec.and_allOnes, BitVec.ofNat_eq_ofNat, BitVec.and_zero, Bool.and_false]

theorem encodeCW_and_lock : encodeCW t w sz b l c &&& 0x4387 = opcodeWord t false 0 b l := by
  refine (encodeCW_and_opcodeWord t (.allOnes 2) w false sz 0 b (.allOnes 3) l true c).trans ?_
  simp only [BitVec.and_allOnes, BitVec.ofNat_eq_ofNat, BitVec.and_zero, Bool.and_false, Bool.and_true]

theorem encodeCW_and_size : encodeCW t w sz b l c &&& 0x43F7 = opcodeWord t false sz b l := by
  refine (encodeCW_and_opcodeWord t (.allOnes 2) w false sz (.allOnes 3) b (.allOnes 3) l true c).trans ?_
  simp only [BitVec.and_allOnes, Bool.and_false, Bool.and_true]

theorem encodeCW_and_write : encodeCW t w sz b l c &&& 0x43FF = opcodeWord t w sz b l := by
  refine (encodeCW_and_opcodeWord t (.allOnes 2) w true sz (.allOnes 3) b (.allOnes 3) l true c).trans ?_
  simp only [BitVec.and_allOnes, Bool.and_true]

/-- The rows of NONSEQ: the mask of each looks no further than the field that decides it. -/
theorem hasRow_decodeNonseq : HasRow (encodeCW 2 w sz b l c) (decodeNonseq b l sz w c) := by
  obtain rfl | rfl | rfl | rfl | rfl | rfl | rfl | rfl := code_cases b
  case inl =>
    cases l with
    | true => exact ⟨(_, _, _), by decide, rfl, encodeCW_and_lock 2 w sz 0 true c⟩
    | false =>
      obtain rfl | rfl | rfl | rfl | rfl | rfl | rfl | rfl := code_cases sz
      rotate_left 5
      iterate 3 exact ⟨(_, _, _), by decide, rfl, encodeCW_and_size 2 w _ 0 false c⟩
      all_goals cases w <;> exact ⟨(_, _, _), by decide, rfl, encodeCW_and_write 2 _ _ 0 false c⟩
  all_goals exact ⟨(_, _, _), by decide, rfl, encodeCW_and_burst 2 w sz _ l c⟩

end

/-- A selected word is the encoding of its own fields. -/
theorem eq_encodeCW (cw : ControlWord) (addr : Addr) (dp : BusValue) (hsel : cw.getLsbD 0 = true) :
    cw = encodeCW (cwTrans cw) (cw.getLsbD 3) (cwSize cw) (cwBurst cw) (cw.getLsbD 14) (cwOperands cw addr dp) := by
  refine BitVec.eq_of_getLsbD_eq fun i hi => ?_
  simp only [encodeCW, protBits, BitVec.getLsbD_append, cwTrans, cwSize, cwBurst, cwProt, cwOperands]
  interval_cases i <;> simp [hsel]

theorem and_one_of_not_selected (cw : ControlWord) (hsel : cw.getLsbD 0 = false) : cw &&& 0x0001 = 0x0000 := by
  refine BitVec.and_one_eq_setWidth_ofBool_getLsbD.trans ?_
  rw [hsel]
  rfl

theorem hasRow_decodeCommand (cw : ControlWord) (addr : Addr) (dp : BusValue) :
    HasRow cw (decodeCommand cw addr dp) := by
  cases hsel : cw.getLsbD 0 with
  | false =>
    rw [decodeCommand_not_selected cw addr dp hsel]
    exact ⟨(_, _, _), by decide, rfl, and_one_of_not_selected cw hsel⟩
  | true =>
    have hcw := eq_encodeCW cw addr dp hsel
    obtain ht | ht | ht | ht := trans_cases (cwTrans cw) <;> rw [ht] at hcw
    · rw [decodeCommand_idle cw addr dp hsel ht, hcw]
      exact ⟨(_, _, _), by decide, rfl, encodeCW_and_trans 0 ..⟩
    · rw [decodeCommand_busy cw addr dp hsel ht, hcw]
      exact ⟨(_, _, _), by decide, rfl, encodeCW_and_trans 1 ..⟩
    · rw [decodeCommand_nonseq cw addr dp hsel ht]
      nth_rw 1 [hcw]
      exact hasRow_decodeNonseq ..
    · rw [decodeCommand_seq cw addr dp hsel ht, hcw]
      exact ⟨(_, _, _), by decide, rfl, encodeCW_and_trans 3 ..⟩

/-- Settles O3: the row of the decoded command is one that the word has, and the patterns exclude each other. -/
theorem decoderTakesFirstTableRow : Obligations.DecoderTakesFirstTableRow := fun cw addr dp =>
  commandRow_eq_firstRow cw _ (hasRow_decodeCommand cw addr dp)

end Sys2Proof.Machine
end

section
/-! PROOFS. The check a committed transfer fails first (30_encoding.md R121, 43_input_stage.md R245), and the stop of the
cycle it fails in (60_exceptions.md R393, R399). -/

namespace Sys2Proof.Machine

/-! The checks in their order (R121): each is reached only past those before it. -/

section
variable (w16 : Bool) (link : Nat) (x : Xfer)

theorem checkXfer_burst (h : x.kind ≠ .single ∨ x.burst ≠ 0) : checkXfer w16 link x = some .burst := by
  rw [checkXfer, if_pos (not_and_or.2 h)]

variable (hkind : x.kind = .single) (hburst : x.burst = 0)
include hkind hburst

theorem checkXfer_locked (h : x.lock = true) : checkXfer w16 link x = some .locked := by
  simp [checkXfer, hkind, hburst, h]

variable (hlock : x.lock = false)
include hlock

theorem checkXfer_sizeReserved (h : 5 ≤ x.size.toNat ∨ (x.size.toNat = 4 ∧ w16 = false)) :
    checkXfer w16 link x = some .sizeReserved := by
  have hsize : ¬(x.size.toNat ≤ 3 ∨ (x.size.toNat = 4 ∧ w16 = true)) := by
    obtain h | ⟨h, rfl⟩ := h
    · omega
    · simp [h]
  simp [checkXfer, hkind, hburst, hlock, hsize]

variable (hsize : x.size.toNat ≤ 3 ∨ (x.size.toNat = 4 ∧ w16 = true))
include hsize

theorem checkXfer_sizeTooWide (h : link < sizeBytes x.size) : checkXfer w16 link x = some .sizeTooWide := by
  simp [checkXfer, hkind, hburst, hlock, hsize, h]

variable (hlink : sizeBytes x.size ≤ link)
include hlink

theorem checkXfer_misaligned (h : x.addr.toNat % sizeBytes x.size ≠ 0) :
    checkXfer w16 link x = some .misaligned := by
  simp [checkXfer, hkind, hburst, hlock, hsize, hlink, h]

/-- The check for 1 KB, the last, never fails (R76). -/
theorem checkXfer_passes (h : x.addr.toNat % sizeBytes x.size = 0) : checkXfer w16 link x = none := by
  have hblock := aligned_same_1KB x.size x.addr.toNat (by omega) h
  simp [checkXfer, hkind, hburst, hlock, hsize, hlink, h, ← hblock]

end

section
variable (c : Cfg) (m : Nat) (x : Xfer)

theorem checkAll_of_checkXfer_some (f : FatalName) (h : checkXfer c.w16 (c.master m).linkBytes x = some f) :
    checkAll c m x = some f := by
  rw [checkAll, h]

theorem checkAll_of_checkXfer_none (h : checkXfer c.w16 (c.master m).linkBytes x = none) :
    checkAll c m x =
      checkTarget (fun s => (c.slave s).linkBytes) (decodeAddr (c.master m) x.addr) x := by
  rw [checkAll, h]

end

theorem checkTarget_slave (below : Nat → Nat) (n : Nat) (x : Xfer) :
    checkTarget below (some (.slave n)) x = if below n < sizeBytes x.size then some .sizeTooWide else none := by
  simp only [checkTarget, ← Nat.not_lt, ite_not]

/-! The target of an address (R181). -/

theorem inRange_iff (r : Range) (a : Addr) :
    inRange r a = true ↔ r.base ≤ a.toNat ∧ a.toNat < r.base + r.size := by
  simp [inRange]

theorem decodeAddr_of_no_range (k : MasterCfg) (a : Addr) (h : ∀ r ∈ k.ranges, inRange r a = false) :
    decodeAddr k a = if k.unmapped = .defaultSlave then some .dflt else none := by
  have hfind : (k.ranges.find? fun r => inRange r a) = none := by simpa [List.find?_eq_none] using h
  rw [decodeAddr, hfind]
  cases k.unmapped <;> rfl

/-- No address is in two ranges of a table that R11 admits. -/
theorem range_unique (rs : List Range) (hrs : disjointRanges rs = true) (a : Addr) (r q : Range) (hr : r ∈ rs)
    (hq : q ∈ rs) (hra : inRange r a = true) (hqa : inRange q a = true) : r = q := by
  induction rs with
  | nil => cases hr
  | cons p ps ih =>
    simp only [disjointRanges, Bool.and_eq_true, List.all_eq_true] at hrs
    obtain ⟨hhead, htail⟩ := hrs
    have hapart (t : Range) (ht : t ∈ ps) (hpa : inRange p a = true) (hta : inRange t a = true) : False := by
      obtain ⟨hlow, hhigh⟩ := (inRange_iff p a).1 hpa
      exact (disjoint_iff p t).1 (hhead t ht) a.toNat ⟨hlow, hhigh, (inRange_iff t a).1 hta⟩
    rw [List.mem_cons] at hr hq
    obtain rfl | hr := hr <;> obtain rfl | hq := hq
    · rfl
    · exact (hapart q hq hra hqa).elim
    · exact (hapart r hr hqa hra).elim
    · exact ih htail hr hq

theorem decodeAddr_of_mem (k : MasterCfg) (hk : disjointRanges k.ranges = true) (a : Addr) (r : Range)
    (hr : r ∈ k.ranges) (ha : inRange r a = true) : decodeAddr k a = some (.slave r.slave) := by
  cases hfind : k.ranges.find? fun r => inRange r a with
  | none => simpa [ha] using List.find?_eq_none.1 hfind r hr
  | some q =>
    have hqa : inRange q a = true := by simpa using List.find?_some hfind
    rw [decodeAddr, hfind, range_unique k.ranges hk a q r (List.mem_of_find?_eq_some hfind) hr hqa ha]

theorem disjointRanges_of_validCfg (c : Cfg) (m : Nat) (hvalid : validCfg c = true) (hm : m < c.nm) :
    disjointRanges (c.master m).ranges = true := by
  obtain ⟨-, -, hmasters, -⟩ := (validCfg_iff c).1 hvalid
  have hmem : c.master m ∈ c.masters := by
    rw [Cfg.master, List.getD_eq_getElem _ _ hm]
    exact List.getElem_mem hm
  have hmaster := hmasters _ hmem
  simp only [validMaster, Bool.and_eq_true] at hmaster
  obtain ⟨⟨-, hdisjoint⟩, -⟩ := hmaster
  exact hdisjoint

/-! The stop of a cycle in which an input stage finds a fault (R399: class (b) first, input stages first). -/

theorem stop_of_stageFault (c : Cycle) (m : Nat) (f : Fault) (hm : m < c.st.cfg.nm)
    (hearlier : ∀ k < m, c.stageFault k = none) (hf : c.stageFault m = some f) : c.stop = some f := by
  have hfirst : c.masterIds.findSome? c.stageFault = some f := by
    refine List.findSome?_eq_some_iff.2
      ⟨List.range m, m, (List.range (c.st.cfg.nm - m - 1)).map (m + 1 + ·), ?_, hf, ?_⟩
    · rw [Cycle.masterIds, ← List.singleton_append, ← List.append_assoc, ← List.range_succ, ← List.range_add]
      congr 1
      omega
    · exact fun k hk => hearlier k (List.mem_range.1 hk)
  simp [Cycle.stop, hfirst]

theorem xferOf_committedAP (b : M2S) : xferOf (committedAP b) = xferOf b.ap := by
  simp [committedAP]

/-- What an input stage that holds nothing raises for a committed transfer of its master (R245). -/
theorem stageFault_of_driven (c : Cycle) (m : Nat) (x : Xfer) (f : FatalName)
    (hx : xferOf (c.driven m).ap = some x) (hheld : (c.st.master m).is.held = none)
    (hcommitted : c.committed m = true) (hcheck : checkAll c.st.cfg m x = some f) :
    c.stageFault m = some (.fatal f c.st.cycle (.inputStage m) (committedAP (c.driven m))) := by
  have hcand : c.cand m = committedAP (c.driven m) := by
    rw [cand_of_not_held c m hheld, hcommitted]; rfl
  simp [Cycle.stageFault, ISReg.fault, hheld, hcommitted, hcand, xferOf_committedAP, hx, hcheck]

theorem exec_failed_check (s : State) (i : Instr) (b : M2S) (x : Xfer) (f : FatalName)
    (hb : commandBundle i = some b) (hx : xferOf b.ap = some x) (hvalid : validCfg s.cfg = true)
    (hport : s.input.port < s.cfg.nm) (hheld : (s.master s.input.port).is.held = none)
    (hcommitted : ({ st := s, inp := cycleInput i s } : Cycle).committed s.input.port = true)
    (hearlier : ∀ k < s.input.port, ({ st := s, inp := cycleInput i s } : Cycle).stageFault k = none)
    (hcheck : checkAll s.cfg s.input.port x = some f) :
    exec i s = .fault (.fatal f s.cycle (.inputStage s.input.port) (committedAP b)) := by
  rw [cycleInput_of_commandBundle i b s hb] at hcommitted hearlier
  have hdriven : ({ st := s, inp := s.input.drive s.input.port b } : Cycle).driven s.input.port = b := by
    rw [driven_drive, if_pos rfl]
  have hfault := stageFault_of_driven { st := s, inp := s.input.drive s.input.port b } s.input.port x f
    (by rwa [hdriven]) hheld hcommitted hcheck
  rw [hdriven] at hfault
  rw [exec_of_commandBundle i b s hb, driveMaster_eq s b hport]
  exact runCycle_of_stop s _ _ hvalid (stop_of_stageFault _ _ _ hport hearlier hfault)

/-- Settles O54: the stop is that of the input stage; the fault is named by the first check that fails, and past the checks
of the transfer's own fields by its target. -/
theorem failedCheckStops : Obligations.FailedCheckStops := by
  refine ⟨exec_failed_check, fun c m x hvalid hm => ?_⟩
  have fails {f : FatalName} (h : checkXfer c.w16 (c.master m).linkBytes x = some f) : checkAll c m x = some f :=
    checkAll_of_checkXfer_some c m x f h
  refine ⟨fun h => fails (checkXfer_burst _ _ x h), fun hkind hburst h => fails (checkXfer_locked _ _ x hkind hburst h),
    fun hkind hburst hlock => ?_⟩
  refine ⟨fun h => fails (checkXfer_sizeReserved _ _ x hkind hburst hlock h), fun hsize => ?_⟩
  refine ⟨fun h => fails (checkXfer_sizeTooWide _ _ x hkind hburst hlock hsize h), fun hlink => ?_⟩
  refine ⟨fun h => fails (checkXfer_misaligned _ _ x hkind hburst hlock hsize hlink h), fun haligned => ?_⟩
  have hpasses := checkXfer_passes _ _ x hkind hburst hlock hsize hlink haligned
  rw [checkAll_of_checkXfer_none c m x hpasses]
  refine ⟨fun houtside => ?_, fun r hr hinside => ?_⟩
  · have hranges : ∀ r ∈ (c.master m).ranges, inRange r x.addr = false := fun r hr =>
      Bool.eq_false_iff.2 fun h => houtside r hr ((inRange_iff r x.addr).1 h)
    rw [decodeAddr_of_no_range _ _ hranges]
    constructor <;> intro hpolicy <;> rw [hpolicy] <;> rfl
  · have hdisjoint := disjointRanges_of_validCfg c m hvalid hm
    rw [decodeAddr_of_mem _ hdisjoint x.addr r hr ((inRange_iff r x.addr).2 hinside), checkTarget_slave]
    rfl

/-! The reserved commands (R167 to R171): the bundle of each fails the check that names its fault, whatever the rest of it. -/

section
variable (cfg : Cfg) (m : Nat) (w l : Bool) (sz : SizeCode) (b : BurstCode) (c : Cmd)

theorem burst_bundle_fails (k : Kind) (h : k ≠ .single ∨ b ≠ 0) :
    ∃ x, xferOf (xferBundle k w sz b l c).ap = some x ∧ checkAll cfg m x = some .burst :=
  ⟨_, rfl, checkAll_of_checkXfer_some _ _ _ _ (checkXfer_burst _ _ _ h)⟩

theorem locked_bundle_fails :
    ∃ x, xferOf (xferBundle .single w sz 0 true c).ap = some x ∧ checkAll cfg m x = some .locked :=
  ⟨_, rfl, checkAll_of_checkXfer_some _ _ _ _ (checkXfer_locked _ _ _ rfl rfl rfl)⟩

theorem reserved_size_bundle_fails (h : 5 ≤ sz.toNat) :
    ∃ x, xferOf (xferBundle .single w sz 0 false c).ap = some x ∧ checkAll cfg m x = some .sizeReserved :=
  ⟨_, rfl, checkAll_of_checkXfer_some _ _ _ _ (checkXfer_sizeReserved _ _ _ rfl rfl rfl (.inl h))⟩

theorem reservedRows_fail (i : Instr) (f : FatalName) (h : (i, f) ∈ reservedRows w sz b l c) :
    ∃ m2s, commandBundle i = some m2s ∧ ∃ x, xferOf m2s.ap = some x ∧ checkAll cfg m x = some f := by
  simp only [reservedRows, List.mem_cons, Prod.mk.injEq, List.not_mem_nil, or_false] at h
  obtain ⟨rfl, rfl⟩ | ⟨rfl, rfl⟩ | ⟨rfl, rfl⟩ | ⟨rfl, rfl⟩ | ⟨rfl, rfl⟩ | ⟨rfl, rfl⟩ | ⟨rfl, rfl⟩ | ⟨rfl, rfl⟩ |
    ⟨rfl, rfl⟩ | ⟨rfl, rfl⟩ | ⟨rfl, rfl⟩ | ⟨rfl, rfl⟩ | ⟨rfl, rfl⟩ := h
  · exact ⟨_, rfl, burst_bundle_fails cfg m w l sz b c .busy (.inl (by decide))⟩
  · exact ⟨_, rfl, burst_bundle_fails cfg m w l sz b c .seq (.inl (by decide))⟩
  iterate 7 exact ⟨_, rfl, burst_bundle_fails cfg m w l sz _ c .single (.inr (by decide))⟩
  · exact ⟨_, rfl, locked_bundle_fails cfg m w sz c⟩
  iterate 3 exact ⟨_, rfl, reserved_size_bundle_fails cfg m w _ c (by decide)⟩

end

/-- Settles O55: what a reserved command drives fails its check in every state, so it stops as any failed check does. -/
theorem reservedCommandsStop : Obligations.ReservedCommandsStop := by
  intro s w l sz b c i f hrow hvalid hport hheld hcommitted hearlier
  obtain ⟨m2s, hbundle, x, hx, hcheck⟩ := reservedRows_fail s.cfg s.input.port w l sz b c i f hrow
  exact ⟨_, exec_failed_check s i m2s x f hbundle hx hvalid hport hheld hcommitted hearlier hcheck, m2s, hbundle, rfl⟩

end Sys2Proof.Machine
end

section
/-! PROOFS. The message in focus of a step: a table word that was placed (30_encoding.md R111, R117, R118), and a grant
that the block itself drives (R118, R265). -/

namespace Sys2Proof.Machine

theorem step_of_decode (s : State) (i : Instr) (hreset : s.input.reset = false) (h : decode s.input.bits = .ok i) :
    step s = exec i s := by
  simp [step, hreset, h]

section
variable (inp : CycleInput) (nbits w : Nat) (k : MasterCfg)

/-- Placing a word deasserts reset and puts the word's bits in focus, whichever format it has. -/
theorem withWord_reset_bits :
    (inp.withWord nbits w k).reset = false ∧ (inp.withWord nbits w k).bits = tablePortBits nbits w := by
  unfold CycleInput.withWord
  cases tablePortBits nbits w <;> exact ⟨rfl, rfl⟩

end

theorem decodeTableWord_eq_some (nbits w : Nat) (i : Instr) :
    decodeTableWord nbits w = some i ↔ decode (tablePortBits nbits w) = .ok i := by
  unfold decodeTableWord
  cases decode (tablePortBits nbits w) <;> simp

/-- Settles O13: the bits in focus after `withFetchWord` are the word's. -/
theorem tableWordRunsNext : Obligations.TableWordRunsNext := by
  intro s nbits w i h
  obtain ⟨hreset, hbits⟩ := withWord_reset_bits s.input nbits w (s.cfg.master 0)
  refine step_of_decode _ i hreset ?_
  rw [withFetchWord_input, hbits]
  exact (decodeTableWord_eq_some nbits w i).1 h

/-- In a cycle with no stop, a grant message completes or is refused as the wire says (log entry 8). -/
theorem observeGrant_of_no_stop (s : State) (g : Grant) (hport : s.input.port < s.cfg.nm)
    (hvalid : validCfg s.cfg = true) (hstop : ({ st := s, inp := s.input } : Cycle).stop = none) :
    observeGrant s g =
      if ({ st := s, inp := s.input } : Cycle).grant s.input.port = some g then
        .next ({ st := s, inp := s.input } : Cycle).edge
      else .refused .grantNotDriven := by
  rw [observeGrant, if_pos hport, runCycle_of_no_stop s s.input hvalid hstop]

theorem observeGrant_next_iff (s : State) (g : Grant) (hport : s.input.port < s.cfg.nm)
    (hvalid : validCfg s.cfg = true) (hstop : ({ st := s, inp := s.input } : Cycle).stop = none) :
    observeGrant s g = .next ({ st := s, inp := s.input } : Cycle).edge ↔
      ({ st := s, inp := s.input } : Cycle).grant s.input.port = some g := by
  rw [observeGrant_of_no_stop s g hport hvalid hstop]
  split <;> simp [*]

/-- Settles O21: GRANT and DENY are the two values a grant message observes. -/
theorem grantMessagesComplete : Obligations.GrantMessagesComplete := fun s hport hvalid hstop =>
  ⟨observeGrant_next_iff s .grant hport hvalid hstop, observeGrant_next_iff s .deny hport hvalid hstop⟩

end Sys2Proof.Machine
end

section
/-! PROOFS. The data phase a grant starts (40_transfers.md R176, 43_input_stage.md R246, 44_output_stage.md R269), and
whose write data reaches a slave (R244, R267). -/

namespace Sys2Proof.Machine

/-- A slave's output stage grants whom it accepts (R265). -/
theorem portGrant_slave_grant_iff (c : Cycle) (m n : Nat) :
    c.portGrant m (.slave n) = some .grant ↔ c.acc n = some m := by
  rw [portGrant_slave]
  by_cases hacc : c.acc n = some m
  · simp [hacc, ((acc_eq_some c n m).1 hacc).2.1]
  · simp [hacc]

/-- A default slave grants a committed transfer for it while its own response is ready (R186). -/
theorem portGrant_dflt_grant_iff (c : Cycle) (m : Nat) :
    c.portGrant m .dflt = some .grant ↔
      c.target m = some .dflt ∧ c.committed m = true ∧ hready (c.st.master m).dflt.response = true := by
  simp [portGrant_dflt]

/-- Whoever is granted has a committed transfer, granted by its target. -/
theorem target_of_grant (c : Cycle) (m : Nat) (h : c.grant m = some .grant) :
    ∃ x, c.target m = some x ∧ c.portGrant m x = some .grant ∧ c.committed m = true := by
  cases ht : c.target m with
  | none => simp [Cycle.grant, ht] at h
  | some x =>
    have hport : c.portGrant m x = some .grant := by simpa only [Cycle.grant, ht] using h
    refine ⟨x, rfl, hport, ?_⟩
    cases x with
    | slave n =>
      obtain ⟨-, -, hcommitted, -⟩ := (acc_eq_some c n m).1 ((portGrant_slave_grant_iff c m n).1 hport)
      exact hcommitted
    | dflt => exact ((portGrant_dflt_grant_iff c m).1 hport).2.1

/-- The input stage of a granted master has its data phase at the target (R246). -/
theorem nextMaster_is_of_grant (c : Cycle) (m : Nat) (h : c.grant m = some .grant) :
    (c.nextMaster m).is = { held := none, dpt := c.target m } := by
  obtain ⟨x, htarget, -, hcommitted⟩ := target_of_grant c m h
  simp [ISReg.next, hcommitted, isXfer_cand_of_target c m x htarget, h]

/-- A default slave that grants enters its error response (R186). -/
theorem nextMaster_of_dflt_grant (c : Cycle) (m : Nat) (h : c.grant m = some .grant)
    (htarget : c.target m = some .dflt) : (c.nextMaster m).dflt = .err1 ∧ (c.nextMaster m).ddowner = some m := by
  have hgrant : c.portGrant m .dflt = some .grant := by simpa only [Cycle.grant, htarget] using h
  obtain ⟨-, -, hready⟩ := (portGrant_dflt_grant_iff c m).1 hgrant
  simp [DefPhase.next, downerNext, Cycle.dfltAcc, hgrant, hready]

/-- An output stage that accepts a master has its data phase from the edge on (R269). -/
theorem nextSlave_downer_of_acc (c : Cycle) (n m : Nat) (h : c.acc n = some m) :
    (c.nextSlave n).downer = some m := by
  obtain ⟨-, -, -, hrdy⟩ := (acc_eq_some c n m).1 h
  simp [downerNext, h, hrdy]

/-! Write data. -/

theorem writeData_eq (c : Cycle) (m : Nat) (x : Target) :
    c.writeData m x = if (c.st.master m).is.dpt = some x then (c.driven m).dp else .absent := rfl

theorem stageData_of_no_downer (c : Cycle) (n : Nat) (h : (c.st.slave n).downer = none) :
    c.stageData n = .absent := by
  simp [Cycle.stageData, stageData, h]

/-- With both ends of a data phase in place, the link below the stage carries the owner's write data (R267). -/
theorem stageData_of_downer (c : Cycle) (n m : Nat) (hdowner : (c.st.slave n).downer = some m)
    (hdpt : (c.st.master m).is.dpt = some (.slave n)) : c.stageData n = (c.driven m).dp := by
  simp [Cycle.stageData, stageData, hdowner, writeData_eq, hdpt]

/-- What an adapter passes down of the write data does not depend on the address phase or the response. -/
theorem adapterDown_dp_congr (q : SlaveRegs) (a : Adapter) (u v : M2S) (r r' : Resp) (h : u.dp = v.dp) :
    (adapterDown q a u r).dp = (adapterDown q a v r').dp := by
  cases a with
  | lb L e => rfl
  | wb => simp only [adapterDown, WBReg.down, h]

theorem chainWires_dp_congr (q : SlaveRegs) (as : List Adapter) (u v : M2S) (r r' : Resp) (h : u.dp = v.dp) :
    (chainWires q as u r).map Wire.dp = (chainWires q as v r').map Wire.dp := by
  induction as generalizing u v with
  | nil => simp [chainWires, h]
  | cons a as ih =>
    have hbelow := ih _ _ (adapterDown_dp_congr q a u v (chainUp q as r) (chainUp q as r') h)
    rw [chainWires, chainWires, List.map_cons, List.map_cons, hbelow, h]

/-- The links below an output stage are never none, so one of them is the slave's own. -/
theorem toSlave_eq (c : Cycle) (n : Nat) :
    ∃ w ∈ c.wires n, (c.wires n).getLast? = some w ∧ c.toSlave n = { ap := w.ap, dp := w.dp } := by
  cases h : (c.wires n).getLast? with
  | none =>
    have hlen := chainWires_length (c.st.slave n) (c.st.cfg.slave n).chain { ap := c.stageAP n, dp := c.stageData n }
      (c.slaveResp n)
    rw [← Cycle.wires, List.getLast?_eq_none_iff.1 h] at hlen
    cases hlen
  | some w => exact ⟨w, List.mem_of_getLast? h, rfl, by simp only [Cycle.toSlave, h]⟩

/-- The write data on the last link is that of the wires' data alone. -/
theorem toSlave_dp (c : Cycle) (n : Nat) : some (c.toSlave n).dp = ((c.wires n).map Wire.dp).getLast? := by
  obtain ⟨w, -, hlast, hw⟩ := toSlave_eq c n
  rw [List.getLast?_map, hlast, hw]
  rfl

theorem toSlave_dp_congr (c d : Cycle) (n : Nat) (hst : c.st = d.st) (h : c.stageData n = d.stageData n) :
    (c.toSlave n).dp = (d.toSlave n).dp := by
  rw [← Option.some_inj, toSlave_dp, toSlave_dp, Cycle.wires, Cycle.wires, hst]
  exact congrArg List.getLast? (chainWires_dp_congr _ _ _ _ _ _ h)

theorem toSlave_dp_of_no_adapter (c : Cycle) (n : Nat) (h : (c.st.cfg.slave n).chain = []) :
    (c.toSlave n).dp = c.stageData n := by
  simp [Cycle.toSlave, Cycle.wires, h, chainWires]

/-- Settles O25: the edge of a granted master's cycle at its target, and the data its owner drives from there. -/
theorem grantStartsDataPhase : Obligations.GrantStartsDataPhase := by
  refine ⟨fun s t inp m hm hrun hgrant => ?_, writeData_eq, fun c n hn hroute => ⟨fun m hdowner => ?_,
    stageData_of_no_downer c n, toSlave_dp_of_no_adapter c n⟩⟩
  · obtain ⟨-, -, rfl⟩ := runCycle_next s t inp hrun
    obtain ⟨x, htarget, hport, -⟩ := target_of_grant _ m hgrant
    have his := nextMaster_is_of_grant _ m hgrant
    rw [← edge_master _ m hm] at his
    refine ⟨his, fun hdflt => ?_, fun n hslave => ?_⟩
    · rw [edge_master _ m hm]
      exact nextMaster_of_dflt_grant _ m hgrant hdflt
    · obtain rfl : x = .slave n := Option.some.inj (htarget.symm.trans hslave)
      have hacc := (portGrant_slave_grant_iff _ m n).1 hport
      have hdowner := nextSlave_downer_of_acc _ n m hacc
      rw [← edge_slave _ n (lt_ns_of_own _ n m ((acc_eq_some _ n m).1 hacc).1)] at hdowner
      exact ⟨hdowner, fun inp' => stageData_of_downer _ n m hdowner (by rw [his, hslave])⟩
  · obtain ⟨-, hmasters, howner⟩ := hroute
    obtain ⟨-, -, -, -, -, hdpt⟩ := hmasters m (howner n hn m hdowner)
    have hdpt := (hdpt n hn).2 hdowner
    have hdata := stageData_of_downer c n m hdowner hdpt
    refine ⟨hdata, fun d hst hdp => ?_⟩
    have hdata' : d.stageData n = c.stageData n := by
      rw [stageData_of_downer d n m (hst ▸ hdowner) (hst ▸ hdpt), ← hdp, hdata]
    exact ⟨hdata', toSlave_dp_congr d c n hst.symm hdata'⟩

end Sys2Proof.Machine
end

section
/-! PROOFS. A chain of adapters at rest (45_line_buffer.md R291, 46_write_buffer.md R321): a write buffer passes its
link through in both directions, a line buffer answers the idle response and drives no write data, and neither raises
anything but for a write that a line buffer samples or a response to its idle data phase. -/

namespace Sys2Proof.Machine

theorem adaptersAtRest_iff (q : SlaveRegs) : adaptersAtRest q = true ↔ q.lb.st = .idle ∧ q.wb = .reset := by
  simp [adaptersAtRest]

theorem lb_of_rest (q : SlaveRegs) (h : adaptersAtRest q = true) : q.lb.st = .idle := ((adaptersAtRest_iff q).1 h).1

theorem wb_of_rest (q : SlaveRegs) (h : adaptersAtRest q = true) : q.wb = .reset := ((adaptersAtRest_iff q).1 h).2

/-- An address phase is no write. -/
abbrev NoWrite (a : AP) : Prop := APAll (fun x => x.write = false) a

theorem noWrite_of_no_transfer (a : AP) (h : xferOf a = none) : NoWrite a := by simp [APAll, h]

theorem compatible_of_noWrite (a : AP) (h : NoWrite a) : compatible a = false := by
  cases hx : xferOf a with
  | none => simp [compatible, hx]
  | some x => simp [compatible, hx, h x hx]

/-- LB_WRITE is for writes alone (R293). -/
theorem lb_writeSampled_of_noWrite (r : LBReg) (L : Nat) (a : AP) (rd : Resp) (h : NoWrite a) :
    r.writeSampled L a rd = false := by
  suffices r.classify L a rd ≠ .write by simp [LBReg.writeSampled, this]
  obtain ⟨-, hclass⟩ | ⟨x, hx, ⟨hw, -⟩ | ⟨-, hclass | ⟨-, hclass⟩ | hclass⟩⟩ := lb_classify_cases r L a rd
  · simp [hclass]
  · rw [h x hx] at hw; cases hw
  all_goals simp [hclass]

/-! A line buffer and a write buffer at rest. -/

section
variable (r : LBReg) (hidle : r.st = .idle) (L : Nat) (a : AP) (rd : Resp)
include hidle

theorem lb_rest_up : r.up rd = idleResp := by simp [LBReg.up, hidle]

/-- With nothing offered and no toggle asked, a line buffer at rest keeps its registers. -/
theorem lb_rest_next_of_no_transfer (h : xferOf a = none) : r.next L a rd none = r := by
  obtain ⟨st, valid, laddr, line, off, rsize, faddr, enabled⟩ := r
  cases hidle
  simp [LBReg.next, LBReg.up, LBReg.fill, LBReg.classify, LBReg.sample, LBReg.toggle, h, hready, statusReady, idleResp]

/-- A line buffer at rest samples what it is offered; a write is fatal (R293). -/
theorem lb_rest_writeSampled (x : Xfer) (hx : xferOf a = some x) (hw : x.write = true) :
    r.writeSampled L a rd = true := by
  simp [LBReg.writeSampled, LBReg.classify, hx, hw, lb_rest_up r hidle, hready, statusReady, idleResp]

end

/-- A write buffer at rest takes a bufferable write that its link samples, and nothing else (R328). -/
theorem wb_reset_next (u : M2S) :
    WBReg.reset.next u idleResp = if compatible u.ap then .first u.ap else .reset := rfl

section
variable (q : SlaveRegs) (hrest : adaptersAtRest q = true)
include hrest

theorem adapterUp_lb_of_rest (L : Nat) (e : Bool) (r : Resp) : adapterUp q (.lb L e) r = idleResp :=
  lb_rest_up q.lb (lb_of_rest q hrest) r

theorem adapterUp_wb_of_rest (r : Resp) : adapterUp q .wb r = r := by
  rw [adapterUp, wb_of_rest q hrest]
  rfl

theorem adapterDown_wb_of_rest (u : M2S) (hready : u.ap.ready = true) : adapterDown q .wb u idleResp = u := by
  obtain ⟨⟨ctl, ready, tag⟩, dp⟩ := u
  cases hready
  rw [adapterDown, wb_of_rest q hrest]
  rfl

/-- What an adapter at rest passes down of a bundle with no write data has none. -/
theorem adapterDown_dp_of_rest (a : Adapter) (u : M2S) (r : Resp) (hdp : u.dp = .absent) :
    (adapterDown q a u r).dp = .absent := by
  cases a with
  | lb L e => rfl
  | wb => rw [adapterDown, wb_of_rest q hrest, ← hdp]; rfl

/-! What a chain at rest answers and raises. -/

theorem chainUp_of_rest (as : List Adapter) (r : Resp) :
    chainUp q as r = if hasLineBuffer as then idleResp else r := by
  induction as with
  | nil => rfl
  | cons a as ih =>
    cases a with
    | lb L e => rw [chainUp, adapterUp_lb_of_rest q hrest]; rfl
    | wb => rw [chainUp, adapterUp_wb_of_rest q hrest, ih]; rfl

theorem chainUp_idle_of_rest (as : List Adapter) : chainUp q as idleResp = idleResp := by
  rw [chainUp_of_rest q hrest, ite_self]

/-- Over a slave that answers its idle data phase, every link of a chain at rest shows that answer, and no write data if
the stage drives none. -/
theorem chainWires_of_rest (as : List Adapter) (u : M2S) (hdp : u.dp = .absent) :
    ∀ w ∈ chainWires q as u idleResp, w.dp = .absent ∧ w.resp = idleResp := by
  induction as generalizing u with
  | nil => simp [chainWires, hdp]
  | cons a as ih =>
    have hbelow := ih _ (adapterDown_dp_of_rest q hrest a u (chainUp q as idleResp) hdp)
    have hup : adapterUp q a (chainUp q as idleResp) = idleResp := chainUp_idle_of_rest q hrest (a :: as)
    simpa [chainWires, hdp, hup] using hbelow

theorem chainPorts_resp_of_rest (as : List Adapter) (u : M2S) :
    ∀ p ∈ chainPorts q as u idleResp, p.2.2 = idleResp := by
  induction as generalizing u with
  | nil => simp [chainPorts]
  | cons a as ih => simpa [chainPorts, chainUp_idle_of_rest q hrest] using ih _

theorem adapterWidthMismatch_of_rest (p : Adapter × M2S × Resp) : adapterWidthMismatch q p = false := by
  have hlb := lb_of_rest q hrest
  have hwb := wb_of_rest q hrest
  obtain ⟨_ | _, u, rd⟩ := p
  · simp [adapterWidthMismatch, LBReg.widthMismatch, hlb]
  · simp [adapterWidthMismatch, WBReg.widthMismatch, hwb, WBReg.reset]

theorem adapterErrorSequence_of_rest (p : Adapter × M2S × Resp) : adapterErrorSequence q p = false := by
  have hwb := wb_of_rest q hrest
  obtain ⟨_ | _, u, rd⟩ := p
  · rfl
  · simp [adapterErrorSequence, WBReg.errorSequence, hwb, WBReg.reset]

theorem adapterIdleResponse_lb_of_rest (L : Nat) (e : Bool) (u : M2S) (rd : Resp) :
    adapterIdleResponse q (.lb L e, u, rd) = decide (rd ≠ idleResp) := by
  simp [adapterIdleResponse, LBReg.idleResponse, lb_of_rest q hrest]

theorem adapterIdleResponse_wb_of_rest (u : M2S) (rd : Resp) : adapterIdleResponse q (.wb, u, rd) = false := by
  simp [adapterIdleResponse, WBReg.idleResponse, wb_of_rest q hrest, WBReg.reset]

/-- No adapter at rest finds a fatal write if the stage forwards none to a line buffer (R293). -/
theorem adapterFatal_of_rest (as : List Adapter) (u : M2S) (r : Resp)
    (hwrite : hasLineBuffer as = true → NoWrite u.ap) : ∀ p ∈ chainPorts q as u r, adapterFatal q p = none := by
  rintro ⟨a, v, rd⟩ hp
  cases a with
  | wb => rfl
  | lb L e =>
    have hmem := mem_of_chainPorts q as u r _ hp
    have hheld : q.wb.held = none := by rw [wb_of_rest q hrest]; rfl
    obtain ⟨hports, -⟩ := apAll_chain (fun x => x.write = false) q as u r (fun _ _ _ _ _ => rfl)
      (by simp [hheld, optXfer]) (hwrite (hasLineBuffer_of_mem L e as hmem))
    simp [adapterFatal, lb_writeSampled_of_noWrite q.lb L v.ap rd (hports _ hp)]

/-- A chain at rest with a line buffer raises LB_WRITE for a write that the stage forwards: what reaches the line buffer
is the stage's own address phase (R293). -/
theorem adapterFatal_of_write (as : List Adapter) (u : M2S) (x : Xfer) (hlb : hasLineBuffer as = true)
    (hready : u.ap.ready = true) (hx : xferOf u.ap = some x) (hw : x.write = true) :
    (chainPorts q as u idleResp).findSome? (adapterFatal q) = some u.ap := by
  induction as with
  | nil => cases hlb
  | cons a as ih =>
    cases a with
    | lb L e =>
      have hsampled :=
        lb_rest_writeSampled q.lb (lb_of_rest q hrest) L u.ap (chainUp q as idleResp) x hx hw
      simp [chainPorts, adapterFatal, hsampled]
    | wb =>
      rw [chainPorts, chainUp_idle_of_rest q hrest, adapterDown_wb_of_rest q hrest u hready]
      exact ih hlb

/-! What a chain at rest samples. -/

section
variable (w16 : Bool) (w : Nat) (en : Option Bool) (as : List Adapter) (u : M2S) (acc : SlaveRegs)
  (hvalid : validChain w16 w as = true) (hready : u.ap.ready = true)
include hvalid hready

/-- The line buffer of a chain at rest is offered the stage's own address phase: only a write buffer can be above it. -/
theorem adaptersNext_lb_of_rest (L : Nat) (hL : lineSize as = some L) :
    (adaptersNext q en (chainPorts q as u idleResp) acc).lb = q.lb.next L u.ap idleResp en := by
  induction as generalizing w acc with
  | nil => cases hL
  | cons a as ih =>
    rw [chainPorts, chainUp_idle_of_rest q hrest]
    cases a with
    | lb M e =>
      obtain rfl : M = L := Option.some.inj hL
      obtain ⟨-, -, -, hone⟩ := (validChain_lb w16 w M e as).1 hvalid
      exact adaptersNext_lb_of_none q q en idleResp as _ _ hone
    | wb =>
      obtain ⟨hvalid, -⟩ := (validChain_wb w16 w as).1 hvalid
      rw [adapterDown_wb_of_rest q hrest u hready]
      exact ih w _ hvalid hL

/-- The write buffer of a chain at rest takes what the stage forwards if that is a bufferable write: a line buffer
above it is offered no write. -/
theorem adaptersNext_wb_of_rest (hacc : acc.wb = .reset) (hwrite : hasLineBuffer as = true → NoWrite u.ap) :
    (adaptersNext q en (chainPorts q as u idleResp) acc).wb =
      if hasWriteBuffer as && compatible u.ap then .first u.ap else .reset := by
  induction as generalizing w acc u with
  | nil => exact hacc
  | cons a as ih =>
    rw [chainPorts, chainUp_idle_of_rest q hrest]
    cases a with
    | lb L e =>
      obtain ⟨-, -, hvalid, hone⟩ := (validChain_lb w16 w L e as).1 hvalid
      have hread := hwrite rfl
      have hdown : NoWrite (adapterDown q (.lb L e) u idleResp).ap :=
        apAll_lb_down _ q.lb L u.ap idleResp (fun _ _ => rfl) hread
      refine (ih L (adapterDown q (.lb L e) u idleResp) { acc with lb := q.lb.next L u.ap idleResp en } hvalid rfl hacc
        fun _ => hdown).trans ?_
      simp [compatible_of_noWrite _ hread, compatible_of_noWrite _ hdown]
    | wb =>
      obtain ⟨hvalid, hone⟩ := (validChain_wb w16 w as).1 hvalid
      refine (adaptersNext_wb_of_none q q en idleResp as _ _ hone).trans ?_
      simp [wb_of_rest q hrest, wb_reset_next, hasWriteBuffer]

end

end

theorem lineSize_eq_none_iff (as : List Adapter) : lineSize as = none ↔ hasLineBuffer as = false := by
  induction as with
  | nil => simp [lineSize, hasLineBuffer]
  | cons a as ih => cases a <;> simp [lineSize, hasLineBuffer, ih]

end Sys2Proof.Machine
end

section
/-! PROOFS. The parts of a block that are at rest in a cycle: what they drive and leave, that they raise nothing, and
the stop of a cycle in which one component alone raises something (60_exceptions.md R399). -/

namespace Sys2Proof.Machine

/-! A master's side. -/

/-- Master `m` has nothing held or in data phase. -/
structure RestMaster (c : Cycle) (m : Nat) : Prop where
  regs : c.st.master m = .reset
  monitor : c.st.masterMonitor m = .reset

/-- Master `m` is at rest and drives nothing. -/
structure QuietMaster (c : Cycle) (m : Nat) : Prop extends RestMaster c m where
  driven : c.driven m = idleM2S

/-- An input stage that holds nothing offers no transfer if its master drives none. -/
theorem no_transfer_of_driven (c : Cycle) (m : Nat) (hheld : (c.st.master m).is.held = none)
    (hx : xferOf (c.driven m).ap = none) : xferOf (c.cand m) = none ∧ c.target m = none := by
  have hcand : xferOf (c.cand m) = none := by
    rw [cand_of_not_held c m hheld, xferOf_ready, xferOf_asMasterAP, hx]
  exact ⟨hcand, by simp [Cycle.target, targetOf, hcand]⟩

theorem grant_of_no_target (c : Cycle) (m : Nat) (h : c.target m = none) : c.grant m = none := by
  simp [Cycle.grant, h]

/-- Away from its default slave a master's transfer leaves the default slave's side at rest (R186). -/
theorem nextMaster_dflt_of_idle (c : Cycle) (m : Nat) (hdflt : (c.st.master m).dflt = .idle)
    (hddowner : (c.st.master m).ddowner = none) (hgrant : c.portGrant m .dflt ≠ some .grant) :
    (c.nextMaster m).dflt = .idle ∧ (c.nextMaster m).ddowner = none := by
  simp [DefPhase.next, downerNext, Cycle.dfltAcc, hdflt, hddowner, hgrant]

theorem masterRegs_eq (q : MasterRegs) (r : ISReg) (his : q.is = r) (hdflt : q.dflt = .idle)
    (hddowner : q.ddowner = none) : q = { is := r, dflt := .idle, ddowner := none } := by
  rw [← his, ← hdflt, ← hddowner]

theorem portGrant_dflt_of_target (c : Cycle) (m : Nat) (h : c.target m ≠ some .dflt) :
    c.portGrant m .dflt ≠ some .grant := by
  simp [portGrant_dflt, h]

namespace RestMaster
variable {c : Cycle} {m : Nat} (h : RestMaster c m)
include h

theorem committed : c.committed m = true := by
  rw [Cycle.committed, h.regs]; rfl

theorem resp : c.resp m = idleResp := by
  rw [Cycle.resp, h.regs]; rfl

theorem cand : c.cand m = committedAP (c.driven m) := by
  rw [cand_of_not_held c m (by rw [h.regs]; rfl), h.committed]; rfl

theorem xferOf_cand : xferOf (c.cand m) = xferOf (c.driven m).ap := by
  rw [h.cand, xferOf_committedAP]

/-- With no transfer driven, the registers stay at rest. -/
theorem nextMaster_of_no_transfer (hx : xferOf (c.driven m).ap = none) : c.nextMaster m = .reset := by
  have hcand : isXfer (c.cand m) = false := by simp [isXfer, h.xferOf_cand, hx]
  have htarget : c.target m = none := (no_transfer_of_driven c m (by rw [h.regs]; rfl) hx).2
  obtain ⟨hdflt, hddowner⟩ := nextMaster_dflt_of_idle c m (by rw [h.regs]; rfl) (by rw [h.regs]; rfl)
    (portGrant_dflt_of_target c m (by simp [htarget]))
  exact masterRegs_eq _ _ (by simp [ISReg.next, h.committed, hcand, ISReg.reset]) hdflt hddowner

end RestMaster

namespace QuietMaster
variable {c : Cycle} {m : Nat} (h : QuietMaster c m)
include h

theorem no_transfer : xferOf (c.driven m).ap = none := by
  rw [h.driven]; rfl

theorem target : c.target m = none :=
  (no_transfer_of_driven c m (by rw [h.regs]; rfl) h.no_transfer).2

theorem nextMaster : c.nextMaster m = .reset := h.nextMaster_of_no_transfer h.no_transfer

theorem nextMonitor : (c.st.masterMonitor m).next (c.masterWire m) = .reset := by
  rw [Cycle.masterWire, h.monitor, h.driven, h.resp]; rfl

end QuietMaster

/-! A slave's side. -/

/-- Slave `n` has no data phase and its adapters are at rest. -/
structure RestSlave (c : Cycle) (n : Nat) : Prop where
  downer : (c.st.slave n).downer = none
  adapters : adaptersAtRest (c.st.slave n) = true
  monitors : ∀ j, c.st.slaveMonitor n j = .reset

/-- Slave `n` is at rest and answers its idle data phase, and its line buffer is asked for no toggle. -/
structure QuietSlave (c : Cycle) (n : Nat) : Prop extends RestSlave c n where
  resp : c.slaveResp n = idleResp
  lbEn : c.lbEn n = none

/-- An output stage whose owner has no committed transfer for it accepts nobody and forwards no transfer. -/
theorem acc_of_no_owner (c : Cycle) (n : Nat)
    (h : ∀ k, c.own n = some k → c.target k = some (.slave n) → c.committed k = false) :
    c.acc n = none ∧ xferOf (c.stageAP n) = none := by
  constructor
  · rw [Option.eq_none_iff_forall_not_mem]
    intro k hk
    obtain ⟨hown, htarget, hcommitted, -⟩ := (acc_eq_some c n k).1 hk
    rw [h k hown htarget] at hcommitted
    cases hcommitted
  · obtain ⟨k, hown, htarget, hcommitted, -⟩ | hidle := stageAP_cases c n
    · rw [h k hown htarget] at hcommitted
      cases hcommitted
    · rw [hidle]; rfl

theorem stageAP_ready (c : Cycle) (n : Nat) : (c.stageAP n).ready = c.rdy n := by
  obtain ⟨k, -, -, -, hap⟩ | hap := stageAP_cases c n <;> rw [hap]

theorem stageResp_of_rest (c : Cycle) (n : Nat) (h : RestSlave c n) :
    c.stageResp n = if hasLineBuffer (c.st.cfg.slave n).chain then idleResp else c.slaveResp n :=
  chainUp_of_rest _ h.adapters _ _

/-- With no transfer forwarded, none reaches the slave through a chain at rest. -/
theorem toSlave_of_no_transfer (c : Cycle) (n : Nat) (h : adaptersAtRest (c.st.slave n) = true)
    (hx : xferOf (c.stageAP n) = none) : xferOf (c.toSlave n).ap = none := by
  have hheld : (c.st.slave n).wb.held = none := by rw [wb_of_rest _ h]; rfl
  obtain ⟨w, hmem, -, hw⟩ := toSlave_eq c n
  obtain ⟨-, hwires⟩ := apAll_chain (fun _ => False) (c.st.slave n) (c.st.cfg.slave n).chain
    { ap := c.stageAP n, dp := c.stageData n } (c.slaveResp n) (fun _ _ _ _ h => h) (by simp [hheld, optXfer])
    (by simp [APAll, hx])
  rw [hw]
  exact Option.eq_none_iff_forall_not_mem.2 (hwires w hmem)

namespace QuietSlave
variable {c : Cycle} {n : Nat} (h : QuietSlave c n)
include h

theorem stageResp : c.stageResp n = idleResp := by
  rw [stageResp_of_rest c n h.toRestSlave, h.resp, ite_self]

theorem rdy : c.rdy n = true := by
  rw [Cycle.rdy, h.stageResp]; rfl

theorem nextDowner : (c.nextSlave n).downer = c.acc n := by
  rw [nextSlave_downer, h.rdy]; rfl

theorem stageReady : (c.stageAP n).ready = true := by rw [stageAP_ready, h.rdy]

section
variable (hvalid : validCfg c.st.cfg = true) (hn : n < c.st.cfg.ns)
include hvalid hn

theorem nextLB : (c.nextSlave n).lb = lbAfterRead c.st n (c.stageAP n) := by
  have hchain := validChain_of_validCfg c.st.cfg n hvalid hn
  rw [Cycle.nextSlave, Cycle.ports, h.resp, h.lbEn]
  cases hL : lineSize (c.st.cfg.slave n).chain with
  | none =>
    simp only [lbAfterRead, hL]
    exact adaptersNext_lb_of_none _ _ _ _ _ _ _ ((lineSize_eq_none_iff _).1 hL)
  | some L =>
    simp only [lbAfterRead, hL]
    exact adaptersNext_lb_of_rest _ h.adapters _ _ _ _ _ _ hchain h.stageReady L hL

theorem nextWB (hwrite : hasLineBuffer (c.st.cfg.slave n).chain = true → NoWrite (c.stageAP n)) :
    (c.nextSlave n).wb = wbAfter c.st n (c.stageAP n) := by
  have hchain := validChain_of_validCfg c.st.cfg n hvalid hn
  have hwb := wb_of_rest _ h.adapters
  rw [Cycle.nextSlave, Cycle.ports, h.resp, wbAfter, hwb]
  exact adaptersNext_wb_of_rest _ h.adapters _ _ _ _ _ _ hchain h.stageReady rfl hwrite

/-- With no transfer forwarded, a quiet slave's adapters keep their registers. -/
theorem nextAdapters_of_no_transfer (hx : xferOf (c.stageAP n) = none) :
    (c.nextSlave n).lb = (c.st.slave n).lb ∧ (c.nextSlave n).wb = (c.st.slave n).wb := by
  have hlb := lb_of_rest _ h.adapters
  have hread := noWrite_of_no_transfer _ hx
  rw [h.nextLB hvalid hn, h.nextWB hvalid hn fun _ => hread]
  constructor
  · unfold lbAfterRead
    split
    · exact lb_rest_next_of_no_transfer _ hlb _ _ _ hx
    · rfl
  · simp [wbAfter, compatible_of_noWrite _ hread]

end

end QuietSlave

/-! What raises nothing (R392, R394). -/

/-- A requester always has a grant value (R266). -/
theorem missingGrant_eq_none (c : Cycle) (m : Nat) : c.missingGrant m = none := by
  refine (violationIf_none _ _ _ _).2 ?_
  cases ht : c.target m with
  | none => rfl
  | some x =>
    cases x with
    | slave n => simp only [Cycle.grant, ht, portGrant_slave]; grind
    | dflt => simp only [Cycle.grant, ht, portGrant_dflt]; grind

/-- Master `m`'s input stage and the monitor of its link raise nothing. -/
structure MasterSilent (c : Cycle) (m : Nat) : Prop where
  fault : c.stageFault m = none
  width : c.masterMonViolation .widthMismatch (LinkMon.widthMismatch c.st.cfg.w16) m = none
  error : c.masterMonViolation .errorSequence LinkMon.errorSequence m = none

/-- The output stage and the adapters of slave `n` raise nothing. -/
structure StageSilent (c : Cycle) (n : Nat) : Prop where
  stray : c.strayResponse n = none
  ports : ∀ p ∈ c.ports n, PortQuiet (c.st.slave n) p

/-- Nor do the monitors of its links. -/
structure SlaveSilent (c : Cycle) (n : Nat) : Prop extends StageSilent c n where
  width : c.chainMonViolation .widthMismatch (LinkMon.widthMismatch c.st.cfg.w16) n = none
  error : c.chainMonViolation .errorSequence LinkMon.errorSequence n = none

namespace StageSilent
variable {c : Cycle} {n : Nat} (h : StageSilent c n)
include h

theorem lineFault : c.lineFault n = none := (lineFault_none c n).2 fun p hp => (h.ports p hp).fatal

theorem idleResponse : c.adapterViolation .idleResponse adapterIdleResponse n = none :=
  (adapterViolation_none ..).2 fun p hp => (h.ports p hp).idleResponse

theorem widthMismatch : c.adapterViolation .widthMismatch adapterWidthMismatch n = none :=
  (adapterViolation_none ..).2 fun p hp => (h.ports p hp).widthMismatch

theorem errorSequence : c.adapterViolation .errorSequence adapterErrorSequence n = none :=
  (adapterViolation_none ..).2 fun p hp => (h.ports p hp).errorSequence

end StageSilent

theorem stageFault_none_of_passes (c : Cycle) (m : Nat)
    (h : ∀ x, xferOf (c.cand m) = some x → checkAll c.st.cfg m x = none) : c.stageFault m = none := by
  unfold Cycle.stageFault ISReg.fault
  split
  · simp [h _ ‹_›]
  · rfl

theorem masterMonViolation_none (c : Cycle) (v : ViolationName) (bad : LinkMon → Wire → Bool) (m : Nat) :
    c.masterMonViolation v bad m = none ↔ bad (c.st.masterMonitor m) (c.masterWire m) = false :=
  violationIf_none _ _ _ _

theorem chainMonViolation_none (c : Cycle) (v : ViolationName) (bad : LinkMon → Wire → Bool) (n : Nat)
    (h : ∀ w ∈ c.wires n, ∀ j, bad (c.st.slaveMonitor n j) w = false) : c.chainMonViolation v bad n = none := by
  refine List.findSome?_eq_none_iff.2 fun wj hwj => (violationIf_none _ _ _ _).2 (h _ ?_ _)
  exact (List.mem_zipIdx' hwj).2 ▸ List.getElem_mem _

/-- On a link with an idle data phase, the idle response and no write data are what R144 and R145 ask for. -/
theorem monitor_reset_silent (w16 : Bool) (w : Wire) (hdp : w.dp = .absent) (hresp : w.resp = idleResp) :
    LinkMon.widthMismatch w16 .reset w = false ∧ LinkMon.errorSequence .reset w = false := by
  obtain ⟨ap, dp, resp⟩ := w
  cases hdp
  cases hresp
  exact ⟨rfl, rfl⟩

theorem RestMaster.silent {c : Cycle} {m : Nat} (h : RestMaster c m) (hdp : (c.driven m).dp = .absent)
    (hcheck : ∀ x, xferOf (c.driven m).ap = some x → checkAll c.st.cfg m x = none) : MasterSilent c m := by
  obtain ⟨hwidth, herror⟩ := monitor_reset_silent c.st.cfg.w16 (c.masterWire m) hdp h.resp
  rw [← h.monitor] at hwidth herror
  exact ⟨stageFault_none_of_passes c m (by rwa [h.xferOf_cand]), (masterMonViolation_none ..).2 hwidth,
    (masterMonViolation_none ..).2 herror⟩

theorem QuietMaster.silent {c : Cycle} {m : Nat} (h : QuietMaster c m) : MasterSilent c m :=
  h.toRestMaster.silent (by rw [h.driven]; rfl) (by simp [h.no_transfer])

theorem QuietSlave.silent {c : Cycle} {n : Nat} (h : QuietSlave c n)
    (hwrite : hasLineBuffer (c.st.cfg.slave n).chain = true → NoWrite (c.stageAP n)) : SlaveSilent c n := by
  have hdata := stageData_of_no_downer c n h.downer
  have hwires : ∀ w ∈ c.wires n, ∀ j, LinkMon.widthMismatch c.st.cfg.w16 (c.st.slaveMonitor n j) w = false ∧
      LinkMon.errorSequence (c.st.slaveMonitor n j) w = false := by
    intro w hw j
    rw [Cycle.wires, h.resp] at hw
    obtain ⟨hdp, hresp⟩ := chainWires_of_rest _ h.adapters _ _ hdata w hw
    rw [h.monitors j]
    exact monitor_reset_silent _ w hdp hresp
  refine ⟨⟨?_, fun p hp => ⟨adapterFatal_of_rest _ h.adapters _ _ _ hwrite p hp, ?_,
    adapterWidthMismatch_of_rest _ h.adapters p, adapterErrorSequence_of_rest _ h.adapters p⟩⟩,
    chainMonViolation_none _ _ _ _ fun w hw j => (hwires w hw j).1,
    chainMonViolation_none _ _ _ _ fun w hw j => (hwires w hw j).2⟩
  · refine (violationIf_none _ _ _ _).2 ?_
    simp [Machine.strayResponse, h.stageResp]
  · rw [Cycle.ports, h.resp] at hp
    have hrd := chainPorts_resp_of_rest _ h.adapters _ _ p hp
    obtain ⟨_ | _, u, rd⟩ := p
    · obtain rfl : rd = idleResp := hrd
      simp [adapterIdleResponse_lb_of_rest _ h.adapters]
    · exact adapterIdleResponse_wb_of_rest _ h.adapters u rd

/-! The stop of a cycle, from what each component raises (R399). -/

theorem findSome?_range_none {α : Type} (f : Nat → Option α) (n : Nat) (h : ∀ k < n, f k = none) :
    (List.range n).findSome? f = none :=
  List.findSome?_eq_none_iff.2 fun k hk => h k (List.mem_range.1 hk)

theorem findSome?_range_only {α : Type} (f : Nat → Option α) (n k : Nat) (v : α) (hk : k < n)
    (hother : ∀ j < n, j ≠ k → f j = none) (hf : f k = some v) : (List.range n).findSome? f = some v := by
  induction n with
  | zero => cases hk
  | succ n ih =>
    rw [List.range_succ, List.findSome?_append]
    by_cases hkn : k = n
    · subst hkn
      rw [findSome?_range_none f k fun j hj => hother j (by omega) (by omega)]
      simp [hf]
    · rw [ih (by omega) fun j hj => hother j (by omega)]
      rfl

section
variable (c : Cycle)

theorem stop_of_silent (hvalid : validCfg c.st.cfg = true) (hmasters : ∀ m < c.st.cfg.nm, MasterSilent c m)
    (hslaves : ∀ n < c.st.cfg.ns, SlaveSilent c n) : c.stop = none := by
  have hm (f : Nat → Option Fault) := findSome?_range_none f c.st.cfg.nm
  have hs (f : Nat → Option Fault) := findSome?_range_none f c.st.cfg.ns
  simp only [Cycle.stop, Cycle.masterIds, Cycle.slaveIds, hm _ fun m h => (hmasters m h).fault,
    hm _ fun m h => (hmasters m h).width, hm _ fun m h => (hmasters m h).error,
    hm _ fun m _ => missingGrant_eq_none c m, hs _ fun n h => (hslaves n h).lineFault,
    hs _ fun n h => (hslaves n h).stray, hs _ fun n h => (hslaves n h).idleResponse,
    hs _ fun n h => (hslaves n h).widthMismatch, hs _ fun n h => (hslaves n h).errorSequence,
    hs _ fun n h => (hslaves n h).width, hs _ fun n h => (hslaves n h).error,
    hs _ fun n h => foreignMaster_eq_none c n hvalid h]
  rfl

variable (f : Fault) (hfault : ∀ m < c.st.cfg.nm, c.stageFault m = none)
include hfault

theorem stop_of_lineFault (n : Nat) (hn : n < c.st.cfg.ns) (hother : ∀ k < c.st.cfg.ns, k ≠ n → c.lineFault k = none)
    (hf : c.lineFault n = some f) : c.stop = some f := by
  simp only [Cycle.stop, Cycle.masterIds, Cycle.slaveIds, findSome?_range_none _ _ hfault,
    findSome?_range_only _ _ n f hn hother hf]
  rfl

section
variable (hline : ∀ k < c.st.cfg.ns, c.lineFault k = none)
include hline

theorem stop_of_strayResponse (n : Nat) (hn : n < c.st.cfg.ns)
    (hother : ∀ k < c.st.cfg.ns, k ≠ n → c.strayResponse k = none) (hf : c.strayResponse n = some f) :
    c.stop = some f := by
  simp only [Cycle.stop, Cycle.masterIds, Cycle.slaveIds, findSome?_range_none _ _ hfault,
    findSome?_range_none _ _ hline, findSome?_range_only _ _ n f hn hother hf]
  rfl

theorem stop_of_adapterIdleResponse (n : Nat) (hn : n < c.st.cfg.ns)
    (hstray : ∀ k < c.st.cfg.ns, c.strayResponse k = none)
    (hother : ∀ k < c.st.cfg.ns, k ≠ n → c.adapterViolation .idleResponse adapterIdleResponse k = none)
    (hf : c.adapterViolation .idleResponse adapterIdleResponse n = some f) : c.stop = some f := by
  simp only [Cycle.stop, Cycle.masterIds, Cycle.slaveIds, findSome?_range_none _ _ hfault,
    findSome?_range_none _ _ hline, findSome?_range_none _ _ hstray, findSome?_range_only _ _ n f hn hother hf]
  rfl

end

section
variable (hslaves : ∀ n < c.st.cfg.ns, StageSilent c n) (m : Nat) (hm : m < c.st.cfg.nm)
include hslaves hm

theorem stop_of_masterWidth
    (hother : ∀ k < c.st.cfg.nm, k ≠ m →
      c.masterMonViolation .widthMismatch (LinkMon.widthMismatch c.st.cfg.w16) k = none)
    (hf : c.masterMonViolation .widthMismatch (LinkMon.widthMismatch c.st.cfg.w16) m = some f) : c.stop = some f := by
  have hs (f : Nat → Option Fault) := findSome?_range_none f c.st.cfg.ns
  simp only [Cycle.stop, Cycle.masterIds, Cycle.slaveIds, findSome?_range_none _ _ hfault,
    findSome?_range_none _ _ fun m _ => missingGrant_eq_none c m, hs _ fun n h => (hslaves n h).lineFault,
    hs _ fun n h => (hslaves n h).stray, hs _ fun n h => (hslaves n h).idleResponse,
    hs _ fun n h => (hslaves n h).widthMismatch, findSome?_range_only _ _ m f hm hother hf]
  rfl

theorem stop_of_masterError (hvalid : validCfg c.st.cfg = true)
    (hmasters : ∀ k < c.st.cfg.nm, c.masterMonViolation .widthMismatch (LinkMon.widthMismatch c.st.cfg.w16) k = none)
    (hchains : ∀ n < c.st.cfg.ns, c.chainMonViolation .widthMismatch (LinkMon.widthMismatch c.st.cfg.w16) n = none)
    (hother : ∀ k < c.st.cfg.nm, k ≠ m → c.masterMonViolation .errorSequence LinkMon.errorSequence k = none)
    (hf : c.masterMonViolation .errorSequence LinkMon.errorSequence m = some f) : c.stop = some f := by
  have hs (f : Nat → Option Fault) := findSome?_range_none f c.st.cfg.ns
  simp only [Cycle.stop, Cycle.masterIds, Cycle.slaveIds, findSome?_range_none _ _ hfault,
    findSome?_range_none _ _ fun m _ => missingGrant_eq_none c m, hs _ fun n h => (hslaves n h).lineFault,
    hs _ fun n h => (hslaves n h).stray, hs _ fun n h => (hslaves n h).idleResponse,
    hs _ fun n h => (hslaves n h).widthMismatch, hs _ fun n h => (hslaves n h).errorSequence,
    hs _ fun n h => foreignMaster_eq_none c n hvalid h, hs _ hchains, findSome?_range_none _ _ hmasters,
    findSome?_range_only _ _ m f hm hother hf]
  rfl

end

end

end Sys2Proof.Machine
end

section
/-! PROOFS. The cycles of a block at rest: no transfer driven (40_transfers.md R153, R154), one transfer requested (R155
to R166, R176, R177) and a response to an idle data phase (R149). -/

namespace Sys2Proof.Machine

/-! The parts of a block at rest. -/

theorem getD_of_forall_eq {α : Type} (l : List α) (d : α) (h : ∀ x ∈ l, x = d) (i : Nat) : l.getD i d = d := by
  rw [List.getD_eq_getElem?_getD]
  cases hi : l[i]? with
  | none => rfl
  | some x => exact h x (List.mem_of_getElem? hi)

section
variable (s : State) (h : AtRest s) (ins : List CycleInput) (inp : CycleInput)
include h

theorem restMaster_of_atRest (m : Nat) : RestMaster { st := { s with inputs := ins }, inp := inp } m := by
  obtain ⟨-, hmasters, -, -, hmons, -, -, -⟩ := h
  constructor
  · exact getD_of_forall_eq s.masters _ (by simp [hmasters]) m
  · exact getD_of_forall_eq _ _ hmons m

theorem restSlave_of_atRest (n : Nat) : RestSlave { st := { s with inputs := ins }, inp := inp } n := by
  obtain ⟨-, -, -, hslaves, -, hmons, -, -⟩ := h
  have hregs : (s.slave n).downer = none ∧ adaptersAtRest (s.slave n) = true := by
    rw [State.slave, List.getD_eq_getElem?_getD]
    cases hn : s.slaves[n]? with
    | none => exact ⟨rfl, rfl⟩
    | some q => exact hslaves q (List.mem_of_getElem? hn)
  refine ⟨hregs.1, hregs.2, fun j => ?_⟩
  show (s.slaveMon.getD n []).getD j .reset = .reset
  refine getD_of_forall_eq _ _ ?_ j
  rw [List.getD_eq_getElem?_getD]
  cases hn : s.slaveMon[n]? with
  | none => simp
  | some ks => exact hmons ks (List.mem_of_getElem? hn)

theorem driven_of_atRest (m : Nat) : s.input.m2s.getD m idleM2S = idleM2S := by
  obtain ⟨-, -, -, -, -, -, hdriven, -⟩ := h
  exact getD_of_forall_eq _ _ hdriven m

theorem slaveResp_of_atRest (n : Nat) : s.input.resp.getD n idleResp = idleResp := by
  obtain ⟨-, -, -, -, -, -, -, hresp, -⟩ := h
  exact getD_of_forall_eq _ _ hresp n

theorem lbEn_of_atRest (n : Nat) : s.input.lbEn.getD n none = none := by
  obtain ⟨-, -, -, -, -, -, -, -, hen⟩ := h
  exact getD_of_forall_eq _ _ hen n

end

/-- A cycle of a block at rest in which every slave answers its idle data phase; the masters drive what they will. -/
structure RestCycle (c : Cycle) : Prop where
  valid : validCfg c.st.cfg = true
  masters : ∀ m, RestMaster c m
  slaves : ∀ n, QuietSlave c n

theorem restCycle_of_atRest (s : State) (h : AtRest s) (ins : List CycleInput) (inp : CycleInput)
    (hresp : ∀ n, inp.resp.getD n idleResp = idleResp) (hen : inp.lbEn = s.input.lbEn) :
    RestCycle { st := { s with inputs := ins }, inp := inp } where
  valid := h.1
  masters := restMaster_of_atRest s h ins inp
  slaves n := ⟨restSlave_of_atRest s h ins inp n, hresp n,
    (congrArg (List.getD · n none) hen).trans (lbEn_of_atRest s h n)⟩

/-- What every edge does (R270, R366). -/
theorem cycleAdvances_edge (c : Cycle) : CycleAdvances c.st c.edge c.inp :=
  ⟨rfl, rfl, rfl, fun k hk => by rw [edge_slave c k hk, nextSlave_arb]⟩

/-! No transfer. -/

namespace RestCycle
variable {c : Cycle} (h : RestCycle c) (hx : ∀ m, xferOf (c.driven m).ap = none)
include h hx

theorem target_of_no_transfer (m : Nat) : c.target m = none :=
  (no_transfer_of_driven c m (by rw [(h.masters m).regs]; rfl) (hx m)).2

theorem stage_of_no_transfer (n : Nat) : c.acc n = none ∧ xferOf (c.stageAP n) = none :=
  acc_of_no_owner c n fun k _ htarget => by rw [h.target_of_no_transfer hx k] at htarget; cases htarget

/-- What the masters see and keep. -/
theorem edge_master_of_no_transfer (m : Nat) (hm : m < c.st.cfg.nm) :
    c.edge.master m = .reset ∧ c.edge.last.resp.getD m idleResp = idleResp ∧
      c.edge.last.grants.getD m none = none := by
  refine ⟨?_, ?_, ?_⟩
  · rw [edge_master c m hm, (h.masters m).nextMaster_of_no_transfer (hx m)]
  · rw [edge_last_resp c m hm, (h.masters m).resp]
  · rw [edge_last_grants c m hm, grant_of_no_target c m (h.target_of_no_transfer hx m)]

/-- What the slaves see and keep. -/
theorem edge_slave_of_no_transfer (n : Nat) (hn : n < c.st.cfg.ns) :
    (c.edge.slave n).downer = none ∧ (c.edge.slave n).lb = (c.st.slave n).lb ∧
      (c.edge.slave n).wb = (c.st.slave n).wb ∧ isXfer (c.edge.last.toSlave.getD n idleM2S).ap = false := by
  obtain ⟨hacc, hap⟩ := h.stage_of_no_transfer hx n
  obtain ⟨hlb, hwb⟩ := (h.slaves n).nextAdapters_of_no_transfer h.valid hn hap
  rw [edge_slave c n hn, edge_last_toSlave c n hn]
  refine ⟨(h.slaves n).nextDowner.trans hacc, hlb, hwb, ?_⟩
  simp [isXfer, toSlave_of_no_transfer c n (h.slaves n).adapters hap]

theorem slaveSilent_of_no_transfer (n : Nat) : SlaveSilent c n :=
  (h.slaves n).silent fun _ => noWrite_of_no_transfer _ (h.stage_of_no_transfer hx n).2

theorem stop_of_no_transfer (hdp : ∀ m, (c.driven m).dp = .absent) : c.stop = none :=
  stop_of_silent c h.valid (fun m _ => (h.masters m).silent (hdp m) (by simp [hx m]))
    fun n _ => h.slaveSilent_of_no_transfer hx n

/-- Write data that no data phase owes is a WIDTH_MISMATCH on its master's link (R144). -/
theorem stop_of_stray_data (p : Nat) (hp : p < c.st.cfg.nm) (hdp : (c.driven p).dp ≠ .absent)
    (hother : ∀ k, k ≠ p → (c.driven k).dp = .absent) :
    c.stop = some (.violation .widthMismatch c.st.cycle (.masterLink p)) := by
  refine stop_of_masterWidth c _ (fun m _ => ?_) (fun n _ => (h.slaveSilent_of_no_transfer hx n).toStageSilent) p hp
    (fun k _ hk => ((h.masters k).silent (hother k hk) (by simp [hx k])).width) ?_
  · exact stageFault_none_of_passes c m (by simp [(h.masters m).xferOf_cand, hx m])
  · have hwide : LinkMon.widthMismatch c.st.cfg.w16 .reset (c.masterWire p) = true := by
      cases hdata : (c.driven p).dp with
      | absent => exact absurd hdata hdp
      | bytes b =>
        have hwire : (c.masterWire p).dp = .bytes b := hdata
        simp [LinkMon.widthMismatch, hwire, widthOf, LinkMon.writeWidth, LinkMon.xfer, LinkMon.reset]
    simp [Cycle.masterMonViolation, (h.masters p).monitor, hwide, Cycle.violationIf]

end RestCycle

/-- Settles O51: neither IDLE nor NOSEL drives a transfer, so no output stage is requested. -/
theorem noTransferCommands : Obligations.NoTransferCommands := by
  intro s ready dp i hi hrest hport
  obtain ⟨b, hb, hx, hdp⟩ : ∃ b, commandBundle i = some b ∧ xferOf b.ap = none ∧ b.dp = dp := by
    obtain rfl | rfl := hi <;> exact ⟨_, rfl, rfl, rfl⟩
  rw [exec_of_commandBundle i b s hb, driveMaster_eq s b hport, cycleInput_of_commandBundle i b s hb]
  have hcycle := restCycle_of_atRest s hrest s.inputs (s.input.drive s.input.port b) (slaveResp_of_atRest s hrest) rfl
  have hdriven (k : Nat) : ({ st := s, inp := s.input.drive s.input.port b } : Cycle).driven k =
      if k = s.input.port then b else idleM2S := by
    rw [driven_drive, driven_of_atRest s hrest]
  have hnone (k : Nat) : xferOf (({ st := s, inp := s.input.drive s.input.port b } : Cycle).driven k).ap = none := by
    rw [hdriven]; split
    · exact hx
    · rfl
  refine ⟨fun habsent => ⟨_, runCycle_of_no_stop s _ hrest.1 (hcycle.stop_of_no_transfer hnone fun k => ?_),
    cycleAdvances_edge _, hcycle.edge_master_of_no_transfer hnone, hcycle.edge_slave_of_no_transfer hnone⟩,
    fun hdata => runCycle_of_stop s _ _ hrest.1 (hcycle.stop_of_stray_data hnone _ hport ?_ fun k hk => ?_)⟩
  · rw [hdriven]; split
    · exact hdp.trans habsent
    · rfl
  · rwa [hdriven, if_pos rfl, hdp]
  · rw [hdriven, if_neg hk]; rfl

/-! One transfer requested. -/

/-- A cycle of a block at rest in which master `p` alone drives, a transfer `f` that passes the checks and has the
target `x`. -/
structure Request (c : Cycle) (p : Nat) (f : Xfer) (x : Target) : Prop extends RestCycle c where
  lt : p < c.st.cfg.nm
  others : ∀ k, k ≠ p → c.driven k = idleM2S
  data : (c.driven p).dp = .absent
  xfer : xferOf (c.driven p).ap = some f
  passes : checkAll c.st.cfg p f = none
  decodes : decodeAddr (c.st.cfg.master p) f.addr = some x

namespace Request
variable {c : Cycle} {p : Nat} {f : Xfer} {x : Target} (h : Request c p f x)
include h

theorem quiet (k : Nat) (hk : k ≠ p) : QuietMaster c k := ⟨h.masters k, h.others k hk⟩

theorem xferOf_cand : xferOf (c.cand p) = some f := by rw [(h.masters p).xferOf_cand, h.xfer]

theorem target : c.target p = some x := by
  simp only [Cycle.target, targetOf, h.xferOf_cand, h.decodes]

theorem target_other (k : Nat) (hk : k ≠ p) : c.target k = none := (h.quiet k hk).target

theorem eq_of_target (k : Nat) (y : Target) (hk : c.target k = some y) : k = p := by
  by_contra hne
  rw [h.target_other k hne] at hk
  cases hk

/-- The output stage of the target sees this one request. -/
theorem reqs (n : Nat) (hn : x = .slave n) : c.reqs n = [p] := by
  have hnodup : (c.reqs n).Nodup := List.nodup_range.filter _
  refine List.perm_singleton.1 ((List.perm_ext_iff_of_nodup hnodup (List.nodup_singleton p)).2 fun k => ?_)
  rw [mem_reqs, List.mem_singleton]
  constructor
  · exact fun hk => h.eq_of_target k _ hk.2
  · rintro rfl; exact ⟨h.lt, hn ▸ h.target⟩

/-- The address route of the target is the master's own exactly if it is open (R201, R207, R438). -/
theorem own_iff (n : Nat) (hn : x = .slave n) : c.own n = some p ↔ routeOpen c.st p x = true := by
  subst hn
  rw [Cycle.own, h.reqs n rfl, (h.slaves n).downer]
  cases harb : (c.st.cfg.slave n).arb with
  | singleMaster m => simp [routeOpen, harb, ArbReg.own]
  | rejecting => simp [routeOpen, harb, ArbReg.own]
  | roundRobin => simp [routeOpen, harb, ArbReg.own]
  | fixedPriority => simp [routeOpen, harb, ArbReg.own]
  | combFixed => cases hready : (c.st.slave n).arb.prevReady <;> simp [routeOpen, harb, ArbReg.own, combOwner, hready]
  | combFixedReversed =>
    cases hready : (c.st.slave n).arb.prevReady <;> simp [routeOpen, harb, ArbReg.own, combOwner, hready]

/-- An output stage forwards nothing unless it is the target and the route to it is open. -/
theorem stage_idle (n : Nat) (hn : ¬(x = .slave n ∧ routeOpen c.st p x = true)) :
    c.acc n = none ∧ xferOf (c.stageAP n) = none := by
  refine acc_of_no_owner c n fun k hown htarget => ?_
  obtain rfl := h.eq_of_target k _ htarget
  have hx : x = .slave n := Option.some.inj (h.target.symm.trans htarget)
  exact absurd ⟨hx, (h.own_iff n hx).1 hown⟩ hn

/-- The target of an open route accepts the master and forwards its address phase as driven. -/
theorem stage_open (n : Nat) (hn : x = .slave n) (hopen : routeOpen c.st p x = true) :
    c.acc n = some p ∧ c.stageAP n = committedAP (c.driven p) := by
  have hown := (h.own_iff n hn).2 hopen
  have htarget : c.target p = some (.slave n) := hn ▸ h.target
  have hcommitted := (h.masters p).committed
  refine ⟨(acc_eq_some c n p).2 ⟨hown, htarget, hcommitted, (h.slaves n).rdy⟩, ?_⟩
  rw [stageAP_of_transfer c n p hown htarget hcommitted, (h.masters p).cand, (h.slaves n).rdy]
  rfl

/-- The grant wire of the master (R186, R265). -/
theorem grant : c.grant p = if routeOpen c.st p x then some .grant else some .deny := by
  simp only [Cycle.grant, h.target]
  cases x with
  | dflt =>
    have hgrant : c.portGrant p .dflt = some .grant :=
      (portGrant_dflt_grant_iff c p).2 ⟨h.target, (h.masters p).committed, by rw [(h.masters p).regs]; rfl⟩
    rw [hgrant]; rfl
  | slave n =>
    rw [portGrant_slave, if_pos h.target]
    cases hopen : routeOpen c.st p (.slave n) with
    | true => simp [(h.stage_open n rfl hopen).1]
    | false => simp [(h.stage_idle n (by simp [hopen])).1]

/-- The transfer is a write only where no line buffer is offered it (R293). -/
theorem noWrite (n : Nat)
    (hwrite : x = .slave n → routeOpen c.st p x = true → hasLineBuffer (c.st.cfg.slave n).chain = true →
      f.write = false)
    (hlb : hasLineBuffer (c.st.cfg.slave n).chain = true) : NoWrite (c.stageAP n) := by
  by_cases hn : x = .slave n ∧ routeOpen c.st p x = true
  · obtain ⟨hx, hopen⟩ := hn
    rw [(h.stage_open n hx hopen).2]
    intro y hy
    rw [xferOf_committedAP, h.xfer] at hy
    cases hy
    exact hwrite hx hopen hlb
  · exact noWrite_of_no_transfer _ (h.stage_idle n hn).2

theorem masterSilent (k : Nat) : MasterSilent c k := by
  by_cases hk : k = p
  · subst hk
    refine (h.masters k).silent h.data fun y hy => ?_
    rw [h.xfer] at hy
    cases hy
    exact h.passes
  · exact (h.quiet k hk).silent

theorem stop_none (hwrite : ∀ n, x = .slave n → routeOpen c.st p x = true →
      hasLineBuffer (c.st.cfg.slave n).chain = true → f.write = false) : c.stop = none :=
  stop_of_silent c h.valid (fun k _ => h.masterSilent k) fun n _ => (h.slaves n).silent (h.noWrite n (hwrite n))

/-- A write whose route to a line buffer is open stops the block (R293). -/
theorem stop_of_line_write (n : Nat) (hn : x = .slave n) (hopen : routeOpen c.st p x = true)
    (hlb : hasLineBuffer (c.st.cfg.slave n).chain = true) (hw : f.write = true) :
    c.stop = some (.fatal .lbWrite c.st.cycle (.lineBuffer n) (committedAP (c.driven p))) := by
  obtain ⟨hacc, hap⟩ := h.stage_open n hn hopen
  refine stop_of_lineFault c _ (fun k _ => (h.masterSilent k).fault) n
    (lt_ns_of_own c n p ((acc_eq_some c n p).1 hacc).1) (fun k _ hk => ?_) ?_
  · refine ((h.slaves k).silent (h.noWrite k fun hx _ _ => ?_)).lineFault
    exact absurd (Target.slave.inj (hx.symm.trans hn)) hk
  · have hready := (h.slaves n).stageReady
    have hfatal := adapterFatal_of_write (c.st.slave n) (h.slaves n).adapters (c.st.cfg.slave n).chain
      { ap := c.stageAP n, dp := c.stageData n } f hlb hready (by rw [hap, xferOf_committedAP, h.xfer]) hw
    rw [Cycle.lineFault, Cycle.ports, (h.slaves n).resp, hfatal, hap]
    rfl

/-! The edge. -/

theorem nextMaster_open (hopen : routeOpen c.st p x = true) :
    c.nextMaster p =
      { is := { held := none, dpt := some x }, dflt := if x = .dflt then .err1 else .idle
        ddowner := if x = .dflt then some p else none } := by
  have hgrant : c.grant p = some .grant := by rw [h.grant, if_pos hopen]
  have his := nextMaster_is_of_grant c p hgrant
  rw [h.target] at his
  by_cases hx : x = .dflt
  · obtain ⟨hdflt, hddowner⟩ := nextMaster_of_dflt_grant c p hgrant (hx ▸ h.target)
    rw [if_pos hx, if_pos hx, ← his, ← hdflt, ← hddowner]
  · obtain ⟨hdflt, hddowner⟩ := nextMaster_dflt_of_idle c p (by rw [(h.masters p).regs]; rfl)
      (by rw [(h.masters p).regs]; rfl) (portGrant_dflt_of_target c p (by simpa [h.target] using hx))
    rw [if_neg hx, if_neg hx]
    exact masterRegs_eq _ _ his hdflt hddowner

theorem nextMaster_closed (hclosed : routeOpen c.st p x = false) :
    c.nextMaster p =
      { is := { held := some (committedAP (c.driven p)), dpt := none }, dflt := .idle, ddowner := none } := by
  have hx : x ≠ .dflt := by rintro rfl; cases hclosed
  have hgrant : c.grant p = some .deny := by simp [h.grant, hclosed]
  have hcand : isXfer (c.cand p) = true := by simp [isXfer, h.xferOf_cand]
  obtain ⟨hdflt, hddowner⟩ := nextMaster_dflt_of_idle c p (by rw [(h.masters p).regs]; rfl)
    (by rw [(h.masters p).regs]; rfl) (portGrant_dflt_of_target c p (by simpa [h.target] using hx))
  rw [← (h.masters p).cand]
  exact masterRegs_eq _ _ (by simp [ISReg.next, (h.masters p).committed, hcand, hgrant]) hdflt hddowner

/-- On an open route the transfer is accepted, and nothing but its target changes. -/
theorem accepted (hopen : routeOpen c.st p x = true)
    (hwrite : ∀ n, x = .slave n → hasLineBuffer (c.st.cfg.slave n).chain = true → f.write = false) :
    AcceptedAt c.st c.edge c.inp p x (fun k => lbAfterRead c.st k (committedAP (c.driven p)))
      (fun k => wbAfter c.st k (committedAP (c.driven p))) := by
  refine ⟨cycleAdvances_edge c, fun k hk => ?_, fun n hn => ?_, ?_⟩
  · rw [edge_master c k hk]
    by_cases hkp : k = p
    · subst hkp
      rw [if_pos rfl, h.nextMaster_open hopen]
    · rw [if_neg hkp, (h.quiet k hkp).nextMaster]
  · rw [edge_slave c n hn, (h.slaves n).nextDowner]
    by_cases hx : x = .slave n
    · obtain ⟨hacc, hap⟩ := h.stage_open n hx hopen
      rw [if_pos hx, if_pos hx, if_pos hx, hacc, ← hap, (h.slaves n).nextLB h.valid hn,
        (h.slaves n).nextWB h.valid hn (h.noWrite n fun hx _ => hwrite n hx)]
      exact ⟨rfl, rfl, rfl⟩
    · obtain ⟨hacc, hap⟩ := h.stage_idle n fun hn => hx hn.1
      rw [if_neg hx, if_neg hx, if_neg hx, hacc]
      exact ⟨rfl, (h.slaves n).nextAdapters_of_no_transfer h.valid hn hap⟩
  · rw [edge_last_grants c p h.lt, h.grant, if_pos hopen]

/-- On a closed route the transfer is held, and nothing else changes. -/
theorem held (hclosed : routeOpen c.st p x = false) :
    HeldAt c.st c.edge c.inp p (committedAP (c.driven p)) := by
  refine ⟨cycleAdvances_edge c, fun k hk => ?_, fun n hn => ?_, ?_⟩
  · rw [edge_master c k hk]
    by_cases hkp : k = p
    · subst hkp
      rw [if_pos rfl, h.nextMaster_closed hclosed]
    · rw [if_neg hkp, (h.quiet k hkp).nextMaster]
  · obtain ⟨hacc, hap⟩ := h.stage_idle n (by simp [hclosed])
    rw [edge_slave c n hn, (h.slaves n).nextDowner]
    exact ⟨hacc, (h.slaves n).nextAdapters_of_no_transfer h.valid hn hap⟩
  · rw [edge_last_grants c p h.lt, h.grant, hclosed]; rfl

end Request

theorem request_of_atRest (s : State) (ins : List CycleInput) (b : M2S) (f : Xfer) (x : Target) (hrest : AtRest s)
    (hport : s.input.port < s.cfg.nm) (hdp : b.dp = .absent) (hx : xferOf b.ap = some f)
    (hcheck : checkAll s.cfg s.input.port f = none)
    (htarget : decodeAddr (s.cfg.master s.input.port) f.addr = some x) :
    Request { st := { s with inputs := ins }, inp := s.input.drive s.input.port b } s.input.port f x := by
  have hdriven (k : Nat) : ({ st := { s with inputs := ins }, inp := s.input.drive s.input.port b } : Cycle).driven k =
      if k = s.input.port then b else idleM2S := by
    rw [driven_drive, driven_of_atRest s hrest]
  refine { restCycle_of_atRest s hrest ins (s.input.drive s.input.port b) (slaveResp_of_atRest s hrest) rfl with
    lt := hport, others := fun k hk => ?_, data := ?_, xfer := ?_, passes := hcheck, decodes := htarget }
  · rw [hdriven, if_neg hk]
  · rw [hdriven, if_pos rfl, hdp]
  · rw [hdriven, if_pos rfl, hx]

theorem driven_port (s : State) (ins : List CycleInput) (b : M2S) :
    ({ st := { s with inputs := ins }, inp := s.input.drive s.input.port b } : Cycle).driven s.input.port = b := by
  rw [driven_drive, if_pos rfl]

/-- Only the adapters' registers at the target count. -/
theorem AcceptedAt.congr {s t : State} {inp : CycleInput} {m : Nat} {x : Target} {lb lb' : Nat → LBReg}
    {wb wb' : Nat → WBReg} (h : AcceptedAt s t inp m x lb wb) (hlb : ∀ k, x = .slave k → lb k = lb' k)
    (hwb : ∀ k, x = .slave k → wb k = wb' k) : AcceptedAt s t inp m x lb' wb' := by
  obtain ⟨hadvances, hmasters, hslaves, hgrant⟩ := h
  refine ⟨hadvances, hmasters, fun k hk => ?_, hgrant⟩
  obtain ⟨hdowner, hlb', hwb'⟩ := hslaves k hk
  refine ⟨hdowner, hlb'.trans ?_, hwb'.trans ?_⟩
  · split
    · exact hlb k ‹_›
    · rfl
  · split
    · exact hwb k ‹_›
    · rfl

/-- A write buffer takes no read. -/
theorem wbAfter_of_noWrite (s : State) (k : Nat) (a : AP) (h : NoWrite a) : wbAfter s k a = (s.slave k).wb := by
  simp [wbAfter, compatible_of_noWrite a h]

theorem lbAfterRead_of_no_line_buffer (s : State) (k : Nat) (a : AP)
    (h : hasLineBuffer (s.cfg.slave k).chain = false) : lbAfterRead s k a = (s.slave k).lb := by
  simp only [lbAfterRead, (lineSize_eq_none_iff _).2 h]

theorem commandBundle_of_readRows (c : Cmd) (i : Instr) (sz : SizeCode) (h : (i, sz) ∈ readRows c) :
    commandBundle i = some (readBundle sz c) := by
  simp only [readRows, List.mem_cons, Prod.mk.injEq, List.not_mem_nil, or_false] at h
  obtain ⟨rfl, rfl⟩ | ⟨rfl, rfl⟩ | ⟨rfl, rfl⟩ | ⟨rfl, rfl⟩ | ⟨rfl, rfl⟩ := h <;> rfl

theorem commandBundle_of_writeRows (c : Cmd) (i : Instr) (sz : SizeCode) (h : (i, sz) ∈ writeRows c) :
    commandBundle i = some (writeBundle sz c) := by
  simp only [writeRows, List.mem_cons, Prod.mk.injEq, List.not_mem_nil, or_false] at h
  obtain ⟨rfl, rfl⟩ | ⟨rfl, rfl⟩ | ⟨rfl, rfl⟩ | ⟨rfl, rfl⟩ | ⟨rfl, rfl⟩ := h <;> rfl

/-- Settles O52: the request of a read, which a line buffer may be offered and a write buffer passes. -/
theorem readsFromRest : Obligations.ReadsFromRest := by
  intro s c i sz f x hrow hrest hport hdp hx hcheck htarget
  have hb := commandBundle_of_readRows c i sz hrow
  obtain rfl := Option.some.inj hx
  have hreq := request_of_atRest s s.inputs (readBundle sz c) _ x hrest hport hdp rfl hcheck htarget
  have hstop := hreq.stop_none fun _ _ _ _ => rfl
  rw [exec_of_commandBundle i _ s hb, driveMaster_eq s _ hport, cycleInput_of_commandBundle i _ s hb]
  refine ⟨fun hopen => ⟨_, runCycle_of_no_stop s _ hrest.1 hstop, ?_⟩,
    fun hclosed => ⟨_, runCycle_of_no_stop s _ hrest.1 hstop, ?_⟩⟩
  · have haccepted := hreq.accepted hopen fun _ _ _ => rfl
    rw [driven_port s s.inputs] at haccepted
    have hread : NoWrite (committedAP (readBundle sz c)) := by
      intro y hy
      obtain rfl := Option.some.inj hy
      rfl
    exact haccepted.congr (fun _ _ => rfl) fun k _ => wbAfter_of_noWrite s k _ hread
  · have hheld := hreq.held hclosed
    rwa [driven_port s s.inputs] at hheld

/-- Settles O53: the request of a write, fatal where a line buffer is offered it. -/
theorem writesFromRest : Obligations.WritesFromRest := by
  intro s c i sz f x hrow hrest hport hdp hx hcheck htarget
  have hb := commandBundle_of_writeRows c i sz hrow
  obtain rfl := Option.some.inj hx
  have hreq := request_of_atRest s s.inputs (writeBundle sz c) _ x hrest hport hdp rfl hcheck htarget
  rw [exec_of_commandBundle i _ s hb, driveMaster_eq s _ hport, cycleInput_of_commandBundle i _ s hb]
  refine ⟨fun hopen hnone => ?_, fun hopen n hn hlb => ?_, fun hclosed => ?_⟩
  · have hwrite (n : Nat) (hn : x = .slave n) (hlb : hasLineBuffer (s.cfg.slave n).chain = true) :=
      Bool.false_ne_true ((hnone n hn).symm.trans hlb)
    have haccepted := hreq.accepted hopen fun n hn hlb => (hwrite n hn hlb).elim
    rw [driven_port s s.inputs] at haccepted
    exact ⟨_, runCycle_of_no_stop s _ hrest.1 (hreq.stop_none fun n hn _ hlb => (hwrite n hn hlb).elim),
      haccepted.congr (fun k hk => lbAfterRead_of_no_line_buffer s k _ (hnone k hk)) fun _ _ => rfl⟩
  · have hstop := hreq.stop_of_line_write n hn hopen hlb rfl
    rw [driven_port s s.inputs] at hstop
    exact runCycle_of_stop s _ _ hrest.1 hstop
  · have hheld := hreq.held hclosed
    rw [driven_port s s.inputs] at hheld
    exact ⟨_, runCycle_of_no_stop s _ hrest.1
      (hreq.stop_none fun _ _ hopen _ => by rw [hclosed] at hopen; cases hopen), hheld⟩

/-- Settles O60: a grant message is the cycle of the request in which the wire carries its value. -/
theorem grantAndDenyFromRest : Obligations.GrantAndDenyFromRest := by
  intro s b f x hrest hport hdp hx hcheck htarget hwrite
  have hreq :=
    request_of_atRest s (s.input.drive s.input.port b :: s.inputs.tail) b f x hrest hport hdp hx hcheck htarget
  have hstop := hreq.stop_none fun n hn _ => hwrite n hn
  have hdriven := driven_port s (s.input.drive s.input.port b :: s.inputs.tail) b
  have hobserve (g : Grant) := observeGrant_of_no_stop (s.requesting b) g hport hrest.1 hstop
  have hgrant : ({ st := s.requesting b, inp := (s.requesting b).input } : Cycle).grant (s.requesting b).input.port =
    if routeOpen s s.input.port x then some .grant else some .deny := hreq.grant
  constructor
  · intro hopen
    rw [if_pos hopen] at hgrant
    have haccepted := hreq.accepted hopen hwrite
    rw [hdriven] at haccepted
    refine ⟨(hobserve .deny).trans ?_, _, (hobserve .grant).trans (if_pos hgrant), haccepted⟩
    rw [hgrant]; rfl
  · intro hclosed
    rw [hclosed] at hgrant
    have hheld := hreq.held hclosed
    rw [hdriven] at hheld
    refine ⟨(hobserve .grant).trans ?_, _, (hobserve .deny).trans (if_pos hgrant), hheld⟩
    rw [hgrant]; rfl

/-! A response to an idle data phase. -/

/-- A chain at rest with a line buffer raises IDLE_RESPONSE, there alone, for a response it is not owed: what
reaches the line buffer is the slave's own response (R298). -/
theorem adapterViolation_of_rest (c : Cycle) (q : SlaveRegs) (hrest : adaptersAtRest q = true) (w16 : Bool) (w n : Nat)
    (as : List Adapter) (u : M2S) (r : Resp) (hvalid : validChain w16 w as = true) (hlb : hasLineBuffer as = true)
    (hr : r ≠ idleResp) :
    ((chainPorts q as u r).findSome? fun p =>
        c.violationIf (adapterIdleResponse q p) .idleResponse (adapterPlace n p.1)) =
      some (.violation .idleResponse c.st.cycle (.lineBuffer n)) := by
  induction as generalizing u w with
  | nil => cases hlb
  | cons a as ih =>
    cases a with
    | lb L e =>
      obtain ⟨-, -, -, hone⟩ := (validChain_lb w16 w L e as).1 hvalid
      have hup : chainUp q as r = r := by rw [chainUp_of_rest q hrest, hone]; rfl
      simp [chainPorts, hup, adapterIdleResponse_lb_of_rest q hrest, hr, adapterPlace, Cycle.violationIf]
    | wb =>
      obtain ⟨hvalid, -⟩ := (validChain_wb w16 w as).1 hvalid
      have hquiet : c.violationIf (adapterIdleResponse q (.wb, u, chainUp q as r)) .idleResponse
          (adapterPlace n .wb) = none := by rw [adapterIdleResponse_wb_of_rest q hrest]; rfl
      rw [chainPorts, List.findSome?_cons, hquiet]
      exact ih _ _ hvalid hlb

/-- The cycle of a block at rest in which slave `n` alone answers its idle data phase with something else. -/
structure StrayCycle (c : Cycle) (n : Nat) : Prop where
  valid : validCfg c.st.cfg = true
  lt : n < c.st.cfg.ns
  masters : ∀ m, QuietMaster c m
  rest : RestSlave c n
  others : ∀ k, k ≠ n → QuietSlave c k
  resp : c.slaveResp n ≠ idleResp

namespace StrayCycle
variable {c : Cycle} {n : Nat} (h : StrayCycle c n)
include h

theorem stage (k : Nat) : xferOf (c.stageAP k) = none :=
  (acc_of_no_owner c k fun m _ htarget => by rw [(h.masters m).target] at htarget; cases htarget).2

theorem otherSilent (k : Nat) (hk : k ≠ n) : SlaveSilent c k :=
  (h.others k hk).silent fun _ => noWrite_of_no_transfer _ (h.stage k)

theorem lineFault (k : Nat) : c.lineFault k = none := by
  by_cases hk : k = n
  · subst hk
    exact (lineFault_none c k).2 (adapterFatal_of_rest _ h.rest.adapters _ _ _ fun _ =>
      noWrite_of_no_transfer _ (h.stage k))
  · exact (h.otherSilent k hk).lineFault

/-- With no line buffer before the slave, the output stage raises the violation (R268). -/
theorem stop_at_stage (hlb : hasLineBuffer (c.st.cfg.slave n).chain = false) :
    c.stop = some (.violation .idleResponse c.st.cycle (.outputStage n)) := by
  refine stop_of_strayResponse c _ (fun m _ => (h.masters m).silent.fault) (fun k _ => h.lineFault k) n h.lt
    (fun k _ hk => (h.otherSilent k hk).stray) ?_
  have hresp : c.stageResp n ≠ idleResp := by simpa [stageResp_of_rest c n h.rest, hlb] using h.resp
  simp [Cycle.strayResponse, Machine.strayResponse, h.rest.downer, hresp, Cycle.violationIf]

/-- A line buffer before the slave raises the violation, and answers the idle response above it (R298). -/
theorem stop_at_line_buffer (hlb : hasLineBuffer (c.st.cfg.slave n).chain = true) :
    c.stop = some (.violation .idleResponse c.st.cycle (.lineBuffer n)) := by
  refine stop_of_adapterIdleResponse c _ (fun m _ => (h.masters m).silent.fault) (fun k _ => h.lineFault k) n h.lt
    (fun k _ => ?_) (fun k _ hk => (h.otherSilent k hk).idleResponse) ?_
  · by_cases hk : k = n
    · subst hk
      refine (violationIf_none _ _ _ _).2 ?_
      simp [Machine.strayResponse, stageResp_of_rest c k h.rest, hlb]
    · exact (h.otherSilent k hk).stray
  · exact adapterViolation_of_rest c _ h.rest.adapters _ _ n _ _ _ (validChain_of_validCfg _ n h.valid h.lt) hlb h.resp

end StrayCycle

/-- The responses as statuses with data: each is the cycle in which the slave in focus answers with it. -/
theorem exec_of_response (s : State) (i : Instr) (st : Status) (data : BusValue)
    (h : (i, st) ∈ [(Instr.success data, Status.success), (.pending data, .pending), (.error1 data, .error1),
      (.error2 data, .error2)]) :
    exec i s = driveSlave s { status := st, data := data } ∧
      cycleInput i s = s.input.answer s.input.port { status := st, data := data } := by
  simp only [List.mem_cons, Prod.mk.injEq, List.not_mem_nil, or_false] at h
  obtain ⟨rfl, rfl⟩ | ⟨rfl, rfl⟩ | ⟨rfl, rfl⟩ | ⟨rfl, rfl⟩ := h <;> exact ⟨rfl, rfl⟩

/-- Settles O59: the idle response leaves a block at rest as it is; any other is found by the first component it
reaches. -/
theorem responsesToIdleDataPhase : Obligations.ResponsesToIdleDataPhase := by
  intro s data i st hrest hport hi
  obtain ⟨hexec, hinput⟩ := exec_of_response s i st data hi
  rw [hexec, hinput, driveSlave_eq s _ hport]
  have hdriven := driven_of_atRest s hrest
  constructor
  · rintro ⟨rfl, rfl⟩
    have hcycle : RestCycle { st := s, inp := s.input.answer s.input.port idleResp } :=
      restCycle_of_atRest s hrest s.inputs _
        (fun n => by rw [answer_resp, setAt_getD, slaveResp_of_atRest s hrest, ite_self]) rfl
    have hnone (m : Nat) :
        xferOf (({ st := s, inp := s.input.answer s.input.port idleResp } : Cycle).driven m).ap = none :=
      congrArg (fun b => xferOf b.ap) (hdriven m)
    refine ⟨_, runCycle_of_no_stop s _ hrest.1 (hcycle.stop_of_no_transfer hnone fun m => congrArg M2S.dp (hdriven m)),
      cycleAdvances_edge _, fun m hm => (hcycle.edge_master_of_no_transfer hnone m hm).1, fun k hk => ?_⟩
    obtain ⟨hdowner, hlb, hwb, -⟩ := hcycle.edge_slave_of_no_transfer hnone k hk
    exact ⟨hdowner, hlb, hwb⟩
  · intro hstray
    have hcycle : StrayCycle { st := s, inp := s.input.answer s.input.port { status := st, data := data } }
        s.input.port :=
      { valid := hrest.1
        lt := hport
        masters := fun m => ⟨restMaster_of_atRest s hrest s.inputs _ m, hdriven m⟩
        rest := restSlave_of_atRest s hrest s.inputs _ _
        others := fun k hk => ⟨restSlave_of_atRest s hrest s.inputs _ k,
          by rw [slaveResp_answer, if_neg hk, slaveResp_of_atRest s hrest], lbEn_of_atRest s hrest k⟩
        resp := by rw [slaveResp_answer, if_pos rfl]; simpa [idleResp] using hstray }
    cases hlb : hasLineBuffer (s.cfg.slave s.input.port).chain with
    | true => exact runCycle_of_stop s _ _ hrest.1 (hcycle.stop_at_line_buffer hlb)
    | false => exact runCycle_of_stop s _ _ hrest.1 (hcycle.stop_at_stage hlb)

end Sys2Proof.Machine
end

section
/-! PROOFS. The cycles of a block with one data phase, at a slave that no adapter fronts (40_transfers.md R142 to R148,
R172 to R175): no transfer is committed, so the data phase waits or ends and nothing is sampled. -/

namespace Sys2Proof.Machine

/-! The widths a data phase calls for (R144, R145). -/

theorem carrierExists_of_widthOf (w16 : Bool) (sz : SizeCode) (v : BusValue) (hsz : sizeCodeExists w16 sz = true)
    (hv : ∀ k, widthOf v = some k → k = sizeBytes sz) : carrierExists w16 v = true := by
  cases hw : widthOf v with
  | none => simp only [carrierExists, hw]
  | some k => exact carrierExists_of_size w16 v sz hsz (by rw [hw, hv k hw])

/-- While its master drives the data owed, the monitor of a data phase finds a wrong width in the response alone. -/
theorem widthMismatch_of_owesData (w16 : Bool) (a : AP) (e : Bool) (w : Wire) (hsize : sizeExists w16 a = true)
    (hdata : owesData a w.dp = true) :
    LinkMon.widthMismatch w16 { dp := some a, err1 := e } w = false ↔
      widthOf w.resp.data = LinkMon.readWidth { dp := some a, err1 := e } w.resp.status := by
  cases hx : xferOf a with
  | none => simp [owesData, hx] at hdata
  | some x =>
    have hsz : sizeCodeExists w16 x.size = true := by simpa [sizeExists, hx] using hsize
    have hdp : widthOf w.dp = if x.write then some (sizeBytes x.size) else none := by simpa [owesData, hx] using hdata
    have hwrite : LinkMon.writeWidth { dp := some a, err1 := e } =
        if x.write then some (sizeBytes x.size) else none := by
      simp [LinkMon.writeWidth, LinkMon.xfer, hx]
    have hexists : carrierExists w16 w.dp = true := carrierExists_of_widthOf w16 x.size _ hsz (by grind)
    rw [widthMismatch_false_iff, hwrite, ← hdp, hexists]
    refine ⟨fun h => h.2.1, fun hread => ⟨rfl, hread, rfl, carrierExists_of_widthOf w16 x.size _ hsz fun k hk => ?_⟩⟩
    simp only [hread, LinkMon.readWidth, LinkMon.xfer, hx] at hk
    grind

theorem readWidth_of_not_success (k : LinkMon) (st : Status) (hst : st ≠ .success) : k.readWidth st = none := by
  unfold LinkMon.readWidth
  cases k.xfer with
  | none => rfl
  | some x => simp [hst]

theorem readWidth_of_owesRead (a : AP) (e : Bool) (data : BusValue) (h : owesRead a data = true) :
    LinkMon.readWidth { dp := some a, err1 := e } .success = widthOf data := by
  cases hx : xferOf a with
  | none => simp [owesRead, hx] at h
  | some x =>
    have hdata : widthOf data = if x.write then none else some (sizeBytes x.size) := by simpa [owesRead, hx] using h
    rw [hdata]
    cases hw : x.write <;> simp [LinkMon.readWidth, LinkMon.xfer, hx, hw]

/-! The cycle. -/

/-- A cycle in which the block's one data phase is the transfer `a` of master `m` at slave `n`, `e` being whether its
last response was ERROR1: `m` drives the data owed, and no other address phase than one that has to wait. -/
structure PhaseCycle (c : Cycle) (m n : Nat) (a : AP) (e : Bool) : Prop where
  valid : validCfg c.st.cfg = true
  ltMaster : m < c.st.cfg.nm
  ltSlave : n < c.st.cfg.ns
  chain : (c.st.cfg.slave n).chain = []
  size : sizeExists c.st.cfg.w16 a = true
  regs : c.st.master m = { is := { held := none, dpt := some (.slave n) }, dflt := .idle, ddowner := none }
  monitor : c.st.masterMonitor m = { dp := some a, err1 := e }
  downer : (c.st.slave n).downer = some m
  slaveMonitor : c.st.slaveMonitor n 0 = { dp := some a, err1 := e }
  masters : ∀ k < c.st.cfg.nm, k ≠ m → QuietMaster c k
  slaves : ∀ k < c.st.cfg.ns, k ≠ n → QuietSlave c k
  data : owesData a (c.driven m).dp = true
  waits : hready (c.slaveResp n) = true → xferOf (c.driven m).ap = none

namespace PhaseCycle
variable {c : Cycle} {m n : Nat} {a : AP} {e : Bool} (h : PhaseCycle c m n a e)
include h

theorem stageResp : c.stageResp n = c.slaveResp n := by
  rw [Cycle.stageResp, h.chain]; rfl

theorem committed : c.committed m = hready (c.slaveResp n) := by
  simp [Cycle.committed, ISReg.committed, h.regs, Cycle.portResp, dispatched, h.downer, h.stageResp]

theorem resp : c.resp m = c.slaveResp n := by
  simp [Cycle.resp, ISReg.response, h.regs, Cycle.portResp, dispatched, h.downer, h.stageResp]

theorem not_held : (c.st.master m).is.held = none := by rw [h.regs]

theorem no_transfer (hr : hready (c.slaveResp n) = true) : xferOf (c.cand m) = none ∧ c.target m = none :=
  no_transfer_of_driven c m h.not_held (h.waits hr)

/-- No committed transfer has a target. -/
theorem not_committed (k : Nat) (x : Target) (hk : c.target k = some x) : c.committed k = false := by
  by_cases hkm : k = m
  · subst hkm
    rw [h.committed, Bool.eq_false_iff]
    intro hr
    rw [(h.no_transfer hr).2] at hk
    cases hk
  · rw [(h.masters k (lt_nm_of_target c k x hk) hkm).target] at hk
    cases hk

theorem stage (k : Nat) : c.acc k = none ∧ xferOf (c.stageAP k) = none :=
  acc_of_no_owner c k fun j _ htarget => h.not_committed j _ htarget

/-! What it raises. -/

theorem otherSilent (k : Nat) (hk : k < c.st.cfg.ns) (hkn : k ≠ n) : SlaveSilent c k :=
  (h.slaves k hk hkn).silent fun _ => noWrite_of_no_transfer _ (h.stage k).2

theorem stageFault : c.stageFault m = none := by
  cases hr : hready (c.slaveResp n) with
  | true => exact stageFault_none_of_passes c m (by simp [(h.no_transfer hr).1])
  | false => simp [Cycle.stageFault, ISReg.fault, h.regs, h.committed, hr]

theorem stageFaults (k : Nat) (hk : k < c.st.cfg.nm) : c.stageFault k = none := by
  by_cases hkm : k = m
  · exact hkm ▸ h.stageFault
  · exact (h.masters k hk hkm).silent.fault

theorem stageSilent (k : Nat) (hk : k < c.st.cfg.ns) : StageSilent c k := by
  by_cases hkn : k = n
  · subst hkn
    refine ⟨(violationIf_none _ _ _ _).2 (by simp [Machine.strayResponse, h.downer]), ?_⟩
    simp [Cycle.ports, h.chain, chainPorts]
  · exact (h.otherSilent k hk hkn).toStageSilent

theorem stageData : c.stageData n = (c.driven m).dp :=
  stageData_of_downer c n m h.downer (by rw [h.regs])

theorem wires : c.wires n = [{ ap := c.stageAP n, dp := (c.driven m).dp, resp := c.slaveResp n }] := by
  rw [Cycle.wires, h.chain, h.stageData]; rfl

theorem masterMonViolation (v : ViolationName) (bad : LinkMon → Wire → Bool) :
    c.masterMonViolation v bad m =
      if bad { dp := some a, err1 := e } (c.masterWire m) then some (.violation v c.st.cycle (.masterLink m))
      else none := by
  rw [Cycle.masterMonViolation, h.monitor]; rfl

theorem chainMonViolation_none (v : ViolationName) (bad : LinkMon → Wire → Bool)
    (hbad : ∀ ap, bad { dp := some a, err1 := e } { ap := ap, dp := (c.driven m).dp, resp := c.slaveResp n } = false) :
    c.chainMonViolation v bad n = none := by
  simp [Cycle.chainMonViolation, h.wires, h.slaveMonitor, hbad, Cycle.violationIf]

/-- On both links of the data phase the widths are right exactly if the slave's data has the width owed. -/
theorem widthMismatch_iff (ap : AP) :
    LinkMon.widthMismatch c.st.cfg.w16 { dp := some a, err1 := e }
        { ap := ap, dp := (c.driven m).dp, resp := c.slaveResp n } = false ↔
      widthOf (c.slaveResp n).data = LinkMon.readWidth { dp := some a, err1 := e } (c.slaveResp n).status :=
  widthMismatch_of_owesData c.st.cfg.w16 a e { ap := ap, dp := (c.driven m).dp, resp := c.slaveResp n } h.size h.data

theorem masterWire : c.masterWire m =
    { ap := asMasterAP (c.driven m).ap, dp := (c.driven m).dp, resp := c.slaveResp n } := by
  rw [Cycle.masterWire, h.resp]

/-- Data of a wrong width is found on the master's link first (R145, R399). -/
theorem stop_of_width
    (hwidth : widthOf (c.slaveResp n).data ≠ LinkMon.readWidth { dp := some a, err1 := e } (c.slaveResp n).status) :
    c.stop = some (.violation .widthMismatch c.st.cycle (.masterLink m)) := by
  refine stop_of_masterWidth c _ h.stageFaults h.stageSilent m h.ltMaster
    (fun k hk hkm => (h.masters k hk hkm).silent.width) ?_
  rw [h.masterMonViolation, h.masterWire, if_pos]
  exact (Bool.not_eq_false _).mp (mt (h.widthMismatch_iff _).1 hwidth)

section
variable (hwidth : widthOf (c.slaveResp n).data = LinkMon.readWidth { dp := some a, err1 := e } (c.slaveResp n).status)
include hwidth

theorem masterWidth (k : Nat) (hk : k < c.st.cfg.nm) :
    c.masterMonViolation .widthMismatch (LinkMon.widthMismatch c.st.cfg.w16) k = none := by
  by_cases hkm : k = m
  · subst hkm
    rw [h.masterMonViolation, h.masterWire, (h.widthMismatch_iff _).2 hwidth]; rfl
  · exact (h.masters k hk hkm).silent.width

theorem chainWidth (k : Nat) (hk : k < c.st.cfg.ns) :
    c.chainMonViolation .widthMismatch (LinkMon.widthMismatch c.st.cfg.w16) k = none := by
  by_cases hkn : k = n
  · subst hkn
    exact h.chainMonViolation_none _ _ fun ap => (h.widthMismatch_iff ap).2 hwidth
  · exact (h.otherSilent k hk hkn).width

/-- ERROR2 not exactly after ERROR1 is found on the master's link first (R147, R399). -/
theorem stop_of_error (herror : e ≠ decide ((c.slaveResp n).status = .error2)) :
    c.stop = some (.violation .errorSequence c.st.cycle (.masterLink m)) := by
  refine stop_of_masterError c _ h.stageFaults h.stageSilent m h.ltMaster h.valid (h.masterWidth hwidth)
    (h.chainWidth hwidth) (fun k hk hkm => (h.masters k hk hkm).silent.error) ?_
  rw [h.masterMonViolation, h.masterWire, if_pos (by simpa [LinkMon.errorSequence] using herror)]

theorem stop_none (herror : e = decide ((c.slaveResp n).status = .error2)) : c.stop = none := by
  have hquiet (ap : AP) : LinkMon.errorSequence { dp := some a, err1 := e }
      { ap := ap, dp := (c.driven m).dp, resp := c.slaveResp n } = false := by simp [LinkMon.errorSequence, ← herror]
  refine stop_of_silent c h.valid (fun k hk => ⟨h.stageFaults k hk, h.masterWidth hwidth k hk, ?_⟩)
    fun k hk => ⟨h.stageSilent k hk, h.chainWidth hwidth k hk, ?_⟩
  · by_cases hkm : k = m
    · subst hkm
      rw [h.masterMonViolation, h.masterWire, hquiet]; rfl
    · exact (h.masters k hk hkm).silent.error
  · by_cases hkn : k = n
    · subst hkn
      exact h.chainMonViolation_none _ _ hquiet
    · exact (h.otherSilent k hk hkn).error

end

/-! The edge. -/

/-- The master's side is reset where its data phase ends, and kept while it waits (R142, R246). -/
theorem nextMaster : c.nextMaster m = if hready (c.slaveResp n) then .reset else c.st.master m := by
  have hgrant : c.portGrant m .dflt ≠ some .grant := by
    intro hgrant
    obtain ⟨htarget, hcommitted, -⟩ := (portGrant_dflt_grant_iff c m).1 hgrant
    rw [h.not_committed m _ htarget] at hcommitted
    cases hcommitted
  obtain ⟨hdflt, hddowner⟩ := nextMaster_dflt_of_idle c m (by rw [h.regs]) (by rw [h.regs]) hgrant
  have his : (c.nextMaster m).is = if hready (c.slaveResp n) then .reset else (c.st.master m).is := by
    rw [nextMaster_is, ISReg.next, h.committed]
    cases hr : hready (c.slaveResp n) with
    | true => simp [isXfer, (h.no_transfer hr).1, ISReg.reset]
    | false => rfl
  refine (masterRegs_eq _ _ his hdflt hddowner).trans ?_
  rw [h.regs]
  split <;> rfl

theorem nextMonitor : (c.st.masterMonitor m).next (c.masterWire m) =
    if hready (c.slaveResp n) then .reset
    else { dp := some a, err1 := decide ((c.slaveResp n).status = .error1) } := by
  rw [h.monitor, h.masterWire, LinkMon.next]
  cases hr : hready (c.slaveResp n) with
  | true => simp [isXfer, h.waits hr, status_ne_error1_of_hready _ hr, LinkMon.reset]
  | false => rfl

theorem edge_slave (k : Nat) (hk : k < c.st.cfg.ns) :
    (c.edge.slave k).downer = (if hready (c.slaveResp n) then none else (c.st.slave k).downer) ∧
      (c.edge.slave k).lb = (c.st.slave k).lb ∧ (c.edge.slave k).wb = (c.st.slave k).wb := by
  obtain ⟨hacc, hap⟩ := h.stage k
  rw [Machine.edge_slave c k hk]
  by_cases hkn : k = n
  · subst hkn
    have hadapters : (c.nextSlave k).lb = (c.st.slave k).lb ∧ (c.nextSlave k).wb = (c.st.slave k).wb := by
      rw [Cycle.nextSlave, Cycle.ports, h.chain]; exact ⟨rfl, rfl⟩
    rw [nextSlave_downer, hacc, Cycle.rdy, h.stageResp]
    exact ⟨rfl, hadapters⟩
  · have hquiet := h.slaves k hk hkn
    refine ⟨?_, hquiet.nextAdapters_of_no_transfer h.valid hk hap⟩
    rw [hquiet.nextDowner, hacc, hquiet.downer, ite_self]

theorem edge_resp (k : Nat) (hk : k < c.st.cfg.nm) :
    c.edge.last.resp.getD k idleResp = if k = m then c.slaveResp n else idleResp := by
  rw [edge_last_resp c k hk]
  by_cases hkm : k = m
  · rw [if_pos hkm, hkm, h.resp]
  · rw [if_neg hkm, (h.masters k hk hkm).resp]

/-- What the master requests meanwhile is not granted. -/
theorem edge_grant : c.edge.last.grants.getD m none = some .deny ∨ c.edge.last.grants.getD m none = none := by
  rw [edge_last_grants c m h.ltMaster]
  obtain hgrant | hgrant | hgrant : c.grant m = some .deny ∨ c.grant m = none ∨ c.grant m = some .grant := by
    cases c.grant m with
    | none => simp
    | some g => cases g <;> simp
  · exact .inl hgrant
  · exact .inr hgrant
  · obtain ⟨x, htarget, -, hcommitted⟩ := target_of_grant c m hgrant
    rw [h.not_committed m x htarget] at hcommitted
    cases hcommitted

end PhaseCycle

/-! The lists of the masters' registers. -/

theorem map_range_eq_set {α : Type} (f : Nat → α) (N m : Nat) (d : α) (h : ∀ k < N, k ≠ m → f k = d) :
    (List.range N).map f = (List.replicate N d).set m (f m) := by
  refine List.ext_getElem (by simp) fun k hk hk' => ?_
  rw [List.length_map, List.length_range] at hk
  rw [List.getElem_map, List.getElem_range, List.getElem_set]
  split
  · simp [*]
  · rw [List.getElem_replicate, h k hk (Ne.symm ‹_›)]

theorem getD_set_replicate {α : Type} (N m k : Nat) (d v : α) (hm : m < N) :
    ((List.replicate N d).set m v).getD k d = if k = m then v else d := by
  rw [List.getD_eq_getElem?_getD, List.getElem?_set]
  grind

namespace PhaseCycle
variable {c : Cycle} {m n : Nat} {a : AP} {e : Bool} (h : PhaseCycle c m n a e)
include h

theorem edge_masters : c.edge.masters =
    (List.replicate c.st.cfg.nm .reset).set m (if hready (c.slaveResp n) then .reset else c.st.master m) := by
  rw [← h.nextMaster]
  exact map_range_eq_set _ _ _ _ fun k hk hkm => (h.masters k hk hkm).nextMaster

theorem edge_masterMon : c.edge.masterMon =
    (List.replicate c.st.cfg.nm .reset).set m (if hready (c.slaveResp n) then .reset
      else { dp := some a, err1 := decide ((c.slaveResp n).status = .error1) }) := by
  rw [← h.nextMonitor]
  exact map_range_eq_set _ _ _ _ fun k hk hkm => (h.masters k hk hkm).nextMonitor

end PhaseCycle

/-! From the states the claims start from. -/

theorem slaveMonitor_of_onePhase (s : State) (m n : Nat) (a : AP) (e : Bool) (h : OnePhase s m n a e) (k j : Nat) :
    s.slaveMonitor k j = if k = n ∧ j = 0 then { dp := some a, err1 := e } else .reset := by
  obtain ⟨-, -, hn, -, -, -, -, -, -, hmons⟩ := h
  have hlen : n < s.cfg.slaves.length := hn
  rw [State.slaveMonitor, hmons, List.getD_eq_getElem?_getD, List.getD_eq_getElem?_getD, List.getElem?_set]
  by_cases hk : n = k
  · subst hk
    cases j <;> simp [hlen]
  · rw [if_neg hk, if_neg (by simp [Ne.symm hk]), List.getElem?_map]
    cases s.cfg.slaves[k]? with
    | none => simp
    | some q =>
      simp only [Option.map_some, Option.getD_some, List.getElem?_replicate]
      split <;> rfl

theorem phaseCycle_of_onePhase (s : State) (inp : CycleInput) (m n : Nat) (a : AP) (e : Bool) (h : OnePhase s m n a e)
    (hothers : ∀ k < s.cfg.nm, k ≠ m → inp.m2s.getD k idleM2S = idleM2S)
    (hresp : ∀ k < s.cfg.ns, k ≠ n → inp.resp.getD k idleResp = idleResp) (hen : ∀ x ∈ inp.lbEn, x = none)
    (hdata : owesData a (inp.m2s.getD m idleM2S).dp = true)
    (hwaits : hready (inp.resp.getD n idleResp) = true → xferOf (inp.m2s.getD m idleM2S).ap = none) :
    PhaseCycle { st := s, inp := inp } m n a e := by
  have hmonitor := slaveMonitor_of_onePhase s m n a e h
  obtain ⟨hvalid, hm, hn, hchain, hsize, hmasters, -, hslaves, hmons, -⟩ := h
  have hregs (k : Nat) := (congrArg (List.getD · k .reset) hmasters).trans (getD_set_replicate _ m k _ _ hm)
  have hmon (k : Nat) := (congrArg (List.getD · k .reset) hmons).trans (getD_set_replicate _ m k _ _ hm)
  exact
    { valid := hvalid
      ltMaster := hm
      ltSlave := hn
      chain := hchain
      size := hsize
      regs := (hregs m).trans (if_pos rfl)
      monitor := (hmon m).trans (if_pos rfl)
      downer := (hslaves n hn).1.trans (if_pos rfl)
      slaveMonitor := (hmonitor n 0).trans (if_pos ⟨rfl, rfl⟩)
      masters := fun k hk hkm => ⟨⟨(hregs k).trans (if_neg hkm), (hmon k).trans (if_neg hkm)⟩, hothers k hk hkm⟩
      slaves := fun k hk hkn =>
        ⟨⟨(hslaves k hk).1.trans (if_neg hkn), (hslaves k hk).2,
          fun j => (hmonitor k j).trans (if_neg fun hkj => hkn hkj.1)⟩, hresp k hk hkn, getD_of_forall_eq _ _ hen k⟩
      data := hdata
      waits := hwaits }

/-- Settles O56: while its data phase waits, what the master drives is not committed. -/
theorem uncommittedCommandsComplete : Obligations.UncommittedCommandsComplete := by
  intro s i b n a st hb hphase hst hdata hothers hresp hen
  have ⟨hvalid, hport, hn, _⟩ := hphase
  have hwait : hready { status := st, data := .absent } = false := by obtain rfl | rfl := hst <;> rfl
  have hdriven (k : Nat) : (s.input.drive s.input.port b).m2s.getD k idleM2S =
      if k = s.input.port then b else s.input.m2s.getD k idleM2S := setAt_getD ..
  have hslave : s.input.resp.getD n idleResp = { status := st, data := .absent } := (hresp n hn).trans (if_pos rfl)
  have hcycle := phaseCycle_of_onePhase s (s.input.drive s.input.port b) s.input.port n a false hphase
    (fun k hk hkm => by rw [hdriven, if_neg hkm, hothers k hk hkm])
    (fun k hk hkn => (hresp k hk).trans (if_neg hkn)) hen (by rwa [hdriven, if_pos rfl])
    (fun hr => by rw [drive_resp, hslave, hwait] at hr; cases hr)
  have hr : ({ st := s, inp := s.input.drive s.input.port b } : Cycle).slaveResp n =
      { status := st, data := .absent } := hslave
  have hwidth : widthOf .absent = LinkMon.readWidth { dp := some a, err1 := false } st :=
    (readWidth_of_not_success _ st (by obtain rfl | rfl := hst <;> decide)).symm
  have hstop := hcycle.stop_none (by rwa [hr]) (by rw [hr]; obtain rfl | rfl := hst <;> rfl)
  have hmasters := hcycle.edge_masters
  have hmon := hcycle.edge_masterMon
  have hslaves := hcycle.edge_slave
  have hseen := hcycle.edge_resp
  simp only [hr, hwait, Bool.false_eq_true, if_false] at hmasters hmon hslaves hseen
  rw [exec_of_commandBundle i b s hb, driveMaster_eq s b hport, cycleInput_of_commandBundle i b s hb]
  refine ⟨_, runCycle_of_no_stop s _ hvalid hstop, cycleAdvances_edge _, ?_, hslaves, ?_,
    (hseen _ hport).trans (if_pos rfl), hcycle.edge_grant⟩
  · obtain ⟨-, -, -, -, -, hregs, -⟩ := hphase
    rw [hmasters, hcycle.regs, hregs]
  · obtain ⟨-, -, -, -, -, -, -, -, hmons, -⟩ := hphase
    rw [hmon, hmons, List.set_set]

/-- The cycle in which the slave of the data phase answers it, its master driving the data owed and nothing else. -/
theorem phaseCycle_of_answer (s : State) (m : Nat) (a : AP) (e : Bool) (dp : BusValue) (r : Resp)
    (hphase : OnePhase s m s.input.port a e) (hdriven : OnlyData s m dp) (hdata : owesData a dp = true)
    (hresp : ∀ k < s.cfg.ns, k ≠ s.input.port → s.input.resp.getD k idleResp = idleResp)
    (hen : ∀ x ∈ s.input.lbEn, x = none) :
    PhaseCycle { st := s, inp := s.input.answer s.input.port r } m s.input.port a e := by
  have ⟨_, hlt, _⟩ := hphase
  have hm := (hdriven m hlt).trans (if_pos rfl)
  refine phaseCycle_of_onePhase s _ m s.input.port a e hphase (fun k hk hkm => (hdriven k hk).trans (if_neg hkm))
    (fun k hk hkn => ?_) hen (by rwa [answer_m2s, hm]) (fun _ => by rw [answer_m2s, hm]; rfl)
  rw [answer_resp, setAt_getD, if_neg hkn, hresp k hk hkn]

theorem slaveResp_answer_port (s : State) (r : Resp) :
    ({ st := s, inp := s.input.answer s.input.port r } : Cycle).slaveResp s.input.port = r := by
  rw [slaveResp_answer, if_pos rfl]

/-- Settles O57: each response of R145 and R147 has the width owed and its place in the error sequence. -/
theorem responsesToDataPhase : Obligations.ResponsesToDataPhase := by
  intro s m a e dp data i r hphase hdriven hdata hresp hen hi
  obtain ⟨hexec, hinput, hwidth, herror⟩ : exec i s = driveSlave s r ∧ cycleInput i s = s.input.answer s.input.port r ∧
      widthOf r.data = LinkMon.readWidth { dp := some a, err1 := e } r.status ∧ e = decide (r.status = .error2) := by
    obtain ⟨rfl, rfl, hread, rfl⟩ | ⟨rfl, rfl, rfl⟩ | ⟨rfl, rfl, rfl⟩ | ⟨rfl, rfl, rfl⟩ := hi
    · exact ⟨rfl, rfl, (readWidth_of_owesRead a false data hread).symm, rfl⟩
    all_goals exact ⟨rfl, rfl, (readWidth_of_not_success _ _ (by decide)).symm, rfl⟩
  have hcycle := phaseCycle_of_answer s m a e dp r hphase hdriven hdata hresp hen
  have hr := slaveResp_answer_port s r
  have hstop := hcycle.stop_none (by rwa [hr]) (by rwa [hr])
  have hmasters := hcycle.edge_masters
  have hmon := hcycle.edge_masterMon
  have hslaves := hcycle.edge_slave
  have hseen := hcycle.edge_resp
  simp only [hr] at hmasters hmon hslaves hseen
  rw [hexec, hinput, driveSlave_eq s r hcycle.ltSlave]
  refine ⟨_, runCycle_of_no_stop s _ hphase.1 hstop, cycleAdvances_edge _, ?_, hslaves, hmon, hseen⟩
  rw [hmasters]
  split
  · exact List.set_replicate_self
  · obtain ⟨-, -, -, -, -, hregs, -⟩ := hphase
    rw [hcycle.regs, hregs]

/-- Settles O58: the monitor of the master's link is the first to find a response out of protocol. -/
theorem responsesOutOfProtocol : Obligations.ResponsesOutOfProtocol := by
  intro s m a e dp data i st hphase hdriven hdata hresp hen hi
  obtain ⟨hexec, -⟩ := exec_of_response s i st data hi
  have hcycle := phaseCycle_of_answer s m a e dp { status := st, data := data } hphase hdriven hdata hresp hen
  have hr := slaveResp_answer_port s { status := st, data := data }
  rw [hexec, driveSlave_eq s _ hcycle.ltSlave]
  refine ⟨fun hwidth => ?_, fun hwidth herror => ?_⟩
  · exact runCycle_of_stop s _ _ hphase.1 (hcycle.stop_of_width (by rwa [hr]))
  · exact runCycle_of_stop s _ _ hphase.1 (hcycle.stop_of_error (by rwa [hr]) (by rwa [hr]))

end Sys2Proof.Machine
end

section
/-! PROOFS. The address decoder and the default slave (41_decoder.md): one target per address (R181), one port per transfer
(R183), the granule of the ranges (R185), and the two-cycle error of the default slave (R186). -/

namespace Sys2Proof.Machine

/-! The target of an address (R181). -/

/-- Settles O38: the ranges of a valid table are disjoint, so the search for a covering one finds it or finds none. -/
theorem decodedTarget : Obligations.DecodedTarget := by
  intro c m a hvalid hm
  have hdisjoint := disjointRanges_of_validCfg c m hvalid hm
  constructor
  · intro r hr hlow hhigh
    have hra : inRange r a = true := (inRange_iff r a).2 ⟨hlow, hhigh⟩
    exact ⟨decodeAddr_of_mem _ hdisjoint a r hr hra, fun q hq hqlow hqhigh =>
      range_unique _ hdisjoint a q r hq hr ((inRange_iff q a).2 ⟨hqlow, hqhigh⟩) hra⟩
  · intro hnone
    exact decodeAddr_of_no_range _ a fun r hr => Bool.eq_false_iff.2 fun h => hnone r hr ((inRange_iff r a).1 h)

/-! The contribution to each port (R183), and the candidate (R112, R242). -/

theorem contribution_of_idle (k : MasterCfg) (cand : AP) (x : Target) (h : cand.ctl = .idle) :
    contribution k cand x = cand := by
  simp [contribution, h]

theorem contribution_of_xfer (k : MasterCfg) (cand : AP) (x : Target) (f : Xfer) (h : cand.ctl = .xfer f) :
    contribution k cand x = if decodeAddr k f.addr = some x then cand else { cand with ctl := .noSel } := by
  simp [contribution, targetOf, xferOf, h]

/-- An input stage reads no address phase of its master as `NoSel` (R112). -/
theorem asMasterAP_ctl_ne_noSel (ap : AP) : (asMasterAP ap).ctl ≠ .noSel := by
  obtain ⟨ctl, ready, tag⟩ := ap
  cases ctl <;> exact nofun

/-- Settles O39, by the candidate's control. -/
theorem routingReachesOnePort : Obligations.RoutingReachesOnePort := by
  refine fun c m => ⟨fun hidle x => contribution_of_idle _ _ x hidle, fun f hf x => ?_, fun hheld => ?_⟩
  · rw [Cycle.contrib, contribution_of_xfer _ _ x f hf]
    exact ⟨fun htarget => if_pos htarget, fun htarget => if_neg htarget⟩
  · rw [cand_of_not_held c m hheld]
    exact asMasterAP_ctl_ne_noSel _

/-! The granule of the ranges (R185). -/

theorem validMaster_of_validCfg (c : Cfg) (m : Nat) (hvalid : validCfg c = true) (hm : m < c.nm) :
    validMaster c (c.master m) = true := by
  obtain ⟨-, -, hmasters, -⟩ := (validCfg_iff c).1 hvalid
  refine hmasters _ ?_
  rw [Cfg.master, List.getD_eq_getElem _ _ hm]
  exact List.getElem_mem hm

/-- In a configuration that has a model, the bounds of every range are multiples of the granule. -/
theorem range_on_granule (c : Cfg) (m : Nat) (r : Range) (hvalid : validCfg c = true) (hm : m < c.nm)
    (hr : r ∈ (c.master m).ranges) : r.base % granule c = 0 ∧ r.size % granule c = 0 := by
  have hmaster := validMaster_of_validCfg c m hvalid hm
  simp only [validMaster, Bool.and_eq_true, List.all_eq_true] at hmaster
  obtain ⟨⟨hranges, -⟩, -⟩ := hmaster
  have hrange := hranges r hr
  simp only [validRange, Bool.and_eq_true, decide_eq_true_eq] at hrange
  obtain ⟨⟨⟨-, hbase⟩, hsize⟩, -⟩ := hrange
  exact ⟨hbase, hsize⟩

theorem runCycle_of_invalidCfg (s : State) (inp : CycleInput) (h : validCfg s.cfg = false) :
    runCycle s inp = .refused .invalidConfig := by
  simp [runCycle, h]

/-- A configuration with no model has no cycle, whichever message is in focus (R11, R185). -/
theorem exec_of_invalidCfg (s : State) (i : Instr) (hport : portExists i s = true) (h : validCfg s.cfg = false) :
    exec i s = .refused .invalidConfig := by
  have hobserve (g : Grant) (hnm : s.input.port < s.cfg.nm) : observeGrant s g = .refused .invalidConfig := by
    rw [observeGrant, if_pos hnm, runCycle_of_invalidCfg s s.input h]
  by_cases hgrant : i = .grant
  · subst hgrant
    exact hobserve .grant (of_decide_eq_true hport)
  · by_cases hdeny : i = .deny
    · subst hdeny
      exact hobserve .deny (of_decide_eq_true hport)
    · rw [exec_eq_runCycle i s hgrant hdeny hport]
      exact runCycle_of_invalidCfg s _ h

/-- Whether a range on the granule covers an address depends on the granule-sized block of the address alone. -/
theorem inRange_congr_of_block (r : Range) (g : Nat) (a b : Addr) (hg : 0 < g) (hbase : r.base % g = 0)
    (hsize : r.size % g = 0) (hblock : a.toNat / g = b.toNat / g) : inRange r a = inRange r b := by
  obtain ⟨lo, hlo⟩ := Nat.dvd_of_mod_eq_zero hbase
  obtain ⟨n, hn⟩ := Nat.dvd_of_mod_eq_zero hsize
  have hcovers (x : Addr) : inRange r x = true ↔ lo ≤ x.toNat / g ∧ x.toNat / g < lo + n := by
    rw [inRange_iff, hlo, hn, ← Nat.mul_add, Nat.le_div_iff_mul_le hg, Nat.div_lt_iff_lt_mul hg, Nat.mul_comm lo,
      Nat.mul_comm (lo + n)]
  rw [Bool.eq_iff_iff, hcovers, hcovers, hblock]

/-- Two addresses that the same ranges cover have one target. -/
theorem decodeAddr_congr (k : MasterCfg) (a b : Addr) (h : ∀ r ∈ k.ranges, inRange r a = inRange r b) :
    decodeAddr k a = decodeAddr k b := by
  have hfind : (k.ranges.find? fun r => inRange r a) = k.ranges.find? fun r => inRange r b := List.find?_congr h
  rw [decodeAddr, decodeAddr, hfind]

/-- The granule is a power of two no smaller than any transfer that exists (R32, R185). -/
theorem granule_eq_pow (c : Cfg) (sz : SizeCode) (h : sizeCodeExists c.w16 sz = true) :
    ∃ k, granule c = 2 ^ k ∧ sz.toNat ≤ k ∧ k ≤ 4 := by
  simp only [sizeCodeExists, Bool.or_eq_true, Bool.and_eq_true, decide_eq_true_eq] at h
  cases hw : c.w16 with
  | true => exact ⟨4, by simp [granule, hw], by omega, le_rfl⟩
  | false => exact ⟨3, by simp [granule, hw], by simpa [hw] using h, by decide⟩

/-- Every byte of an aligned transfer lies in the granule-sized block of its first. -/
theorem block_of_byte (c : Cfg) (sz : SizeCode) (a : Addr) (k : Nat) (hsize : sizeCodeExists c.w16 sz = true)
    (haligned : a.toNat % sizeBytes sz = 0) (hk : k < sizeBytes sz) :
    (a + BitVec.ofNat 32 k).toNat / granule c = a.toNat / granule c := by
  obtain ⟨j, hg, hsz, hj⟩ := granule_eq_pow c sz hsize
  have hnowrap := aligned_no_wrap sz a (by omega) haligned
  have hblock := aligned_fits_block sz a.toNat j hsz haligned
  have hbyte : (a + BitVec.ofNat 32 k).toNat = a.toNat + k := by
    rw [BitVec.toNat_add, BitVec.toNat_ofNat, Nat.mod_eq_of_lt (by omega : k < 2 ^ 32), Nat.mod_eq_of_lt (by omega)]
  rw [hbyte, hg, Nat.add_div (Nat.two_pow_pos j), Nat.mod_eq_of_lt (by omega : k < 2 ^ j),
    Nat.div_eq_of_lt (by omega : k < 2 ^ j), if_neg (by omega)]
  rfl

/-- Settles O15: a range off the granule leaves no valid configuration; on the granule, a range covers whole blocks, and
an aligned transfer lies in one. -/
theorem rangeGranularity : Obligations.RangeGranularity := by
  refine ⟨fun s i m r hm hr hoff hport => exec_of_invalidCfg s i hport ?_,
    fun c m link x hvalid hm hcheck k hk => ?_⟩
  · refine Bool.eq_false_iff.2 fun hvalid => ?_
    obtain ⟨hbase, hsize⟩ := range_on_granule s.cfg m r hvalid hm hr
    exact hoff.elim (· hbase) (· hsize)
  · obtain ⟨hexists, -, haligned⟩ := checkXfer_none c.w16 link x hcheck
    have hpos : 0 < granule c := by unfold granule; split <;> decide
    refine decodeAddr_congr _ _ _ fun r hr => ?_
    obtain ⟨hbase, hsize⟩ := range_on_granule c m r hvalid hm hr
    exact inRange_congr_of_block r (granule c) _ _ hpos hbase hsize (block_of_byte c x.size x.addr k hexists haligned hk)

/-! The default slave (R186). -/

/-- Master `m`'s data phase is at its default slave, in phase `p` of the error. -/
structure DefaultSlavePhase (s : State) (m : Nat) (p : DefPhase) : Prop where
  regs : s.master m = { is := { held := none, dpt := some .dflt }, dflt := p, ddowner := some m }

/-- While a default slave has its master's data phase, its response is all that the master sees. -/
theorem DefaultSlavePhase.resp_committed {c : Cycle} {m : Nat} {p : DefPhase} (h : DefaultSlavePhase c.st m p) :
    c.resp m = p.response ∧ c.committed m = hready p.response := by
  simp [Cycle.resp, Cycle.committed, ISReg.response, ISReg.committed, portResp_dflt, h.regs]

/-- The first error cycle commits nothing, so the default slave goes on to the second. -/
theorem DefaultSlavePhase.edge_of_err1 {c : Cycle} {m : Nat} (h : DefaultSlavePhase c.st m .err1) (hm : m < c.st.cfg.nm) :
    DefaultSlavePhase c.edge m .err2 := by
  obtain ⟨-, hcommitted⟩ := h.resp_committed
  have hwait : c.committed m = false := hcommitted
  have hgrant : c.portGrant m .dflt ≠ some .grant := by
    rw [Ne, portGrant_dflt_grant_iff, hwait]
    simp
  constructor
  rw [edge_master c m hm, Cycle.nextMaster, h.regs, hwait]
  simp [ISReg.next, DefPhase.next, hgrant, downerNext, hready, statusReady, DefPhase.response]

/-- A committed master's default slave is ready: it is idle, or shows that master the response that commits it. -/
theorem dflt_ready_of_committed (c : Cycle) (m : Nat) (hroute : RouteInvariant c.st) (hm : m < c.st.cfg.nm)
    (hcommitted : c.committed m = true) : hready (c.st.master m).dflt.response = true := by
  obtain ⟨-, hmasters, -⟩ := hroute
  obtain ⟨-, -, -, hdflt, hddowner, -⟩ := hmasters m hm
  by_cases hdpt : (c.st.master m).is.dpt = some .dflt
  · rw [if_pos hdpt] at hddowner
    simpa [Cycle.committed, ISReg.committed, hdpt, portResp_dflt, hddowner] using hcommitted
  · rw [not_ne_iff.1 (mt hdflt.2 hdpt)]
    rfl

/-- A granted transfer to the default slave is in the first error cycle from the edge on. -/
theorem defaultSlavePhase_edge_of_grant (c : Cycle) (m : Nat) (hm : m < c.st.cfg.nm) (htarget : c.target m = some .dflt)
    (hgrant : c.grant m = some .grant) : DefaultSlavePhase c.edge m .err1 := by
  have his := nextMaster_is_of_grant c m hgrant
  obtain ⟨hdflt, hddowner⟩ := nextMaster_of_dflt_grant c m hgrant htarget
  constructor
  rw [edge_master c m hm, ← hdflt, ← hddowner, ← htarget, ← his]

/-- Settles O41: the grant starts the data phase at the default slave, whose two error cycles depend on no input. -/
theorem defaultSlaveTwoCycleError : Obligations.DefaultSlaveTwoCycleError := by
  intro s t inp m hroute hm hrun htarget hcommitted
  obtain ⟨-, -, rfl⟩ := runCycle_next s t inp hrun
  have hready := dflt_ready_of_committed _ m hroute hm hcommitted
  have hgrant : ({ st := s, inp := inp } : Cycle).grant m = some .grant := by
    rw [Cycle.grant, htarget]
    exact (portGrant_dflt_grant_iff _ m).2 ⟨htarget, hcommitted, hready⟩
  have herr1 := defaultSlavePhase_edge_of_grant _ m hm htarget hgrant
  refine ⟨hgrant, fun inp' => ?_⟩
  obtain ⟨hresp, hwait⟩ := DefaultSlavePhase.resp_committed (c := ⟨_, inp'⟩) herr1
  refine ⟨hresp, hwait, fun u hrun' inp'' => ?_⟩
  obtain ⟨-, -, rfl⟩ := runCycle_next _ u inp' hrun'
  exact DefaultSlavePhase.resp_committed (c := ⟨_, inp''⟩) (DefaultSlavePhase.edge_of_err1 (c := ⟨_, inp'⟩) herr1 hm)

end Sys2Proof.Machine
end

section
/-! PROOFS. The arbiters (42_arbiter.md): whom an output stage accepts (R264, R265), that no locked transfer reaches an
arbiter (R203), and the decision of each variant that arbitrates. A sorted list of requesters is decided by its first
element in an order: of the index (R206 to R208), or of the place in the scan of a round robin (R204). The place of a
requester falls with every decision for another, which bounds the wait (R211). -/

namespace Sys2Proof.Machine

/-! The transfer an output stage accepts (R264, R265). -/

theorem stageAP_ctl_of_acc (c : Cycle) (n m : Nat) (h : c.acc n = some m) : (c.stageAP n).ctl = (c.cand m).ctl := by
  obtain ⟨hown, htarget, hcommitted, -⟩ := (acc_eq_some c n m).1 h
  rw [stageAP_of_transfer c n m hown htarget hcommitted]

/-- Settles O23: a stage grants whom it accepts, and it accepts one master. -/
theorem acceptedTransferIsForwarded : Obligations.AcceptedTransferIsForwarded := by
  intro c n m hgrant
  have hacc := (portGrant_slave_grant_iff c m n).1 hgrant
  obtain ⟨hown, htarget, hcommitted, hrdy⟩ := (acc_eq_some c n m).1 hacc
  refine ⟨hown, hacc, hrdy, hcommitted, htarget, isXfer_cand_of_target c m _ htarget, stageAP_ctl_of_acc c n m hacc,
    (stageAP_ready c n).trans hrdy, fun k hk => ?_⟩
  have hacck := (portGrant_slave_grant_iff c k n).1 hk
  exact Option.some.inj (hacck.symm.trans hacc)

/-! The lock (R203). -/

/-- The check for a lock is the second: the first, for a burst, has passed where it is made (R121). -/
theorem lock_of_checkXfer_none (w16 : Bool) (link : Nat) (x : Xfer) (h : checkXfer w16 link x = none) :
    x.lock = false := by
  rw [Bool.eq_false_iff]
  intro hlock
  by_cases hsingle : x.kind = .single ∧ x.burst = 0
  · rw [checkXfer_locked w16 link x hsingle.1 hsingle.2 hlock] at h
    cases h
  · rw [checkXfer_burst w16 link x (not_and_or.1 hsingle)] at h
    cases h

/-- Settles O37: what a stage forwards has passed the checks of R245. -/
theorem lockNeverReachesArbiter : Obligations.LockNeverReachesArbiter := by
  intro c n hroute hstop
  unfold lockFlag
  split
  next x hx =>
    obtain ⟨m, -, -, hchecked⟩ := stageAP_checked c n x hstop hroute hx
    exact lock_of_checkXfer_none _ _ x (checkAll_none c.st.cfg m x hchecked).1
  next => rfl

/-! The first requester in an order. -/

theorem exists_head_of_pairwise {r : Nat → Nat → Prop} (l : List Nat) (hl : l.Pairwise r) (hne : l ≠ []) :
    ∃ m ∈ l, l.head? = some m ∧ ∀ k ∈ l, k = m ∨ r m k := by
  cases l with
  | nil => exact absurd rfl hne
  | cons m l =>
    exact ⟨m, List.mem_cons_self, rfl, fun k hk => (List.mem_cons.1 hk).imp id (List.rel_of_pairwise_cons hl)⟩

/-- The requester of lowest index comes first. -/
theorem exists_lowest (l : List Nat) (hl : l.Pairwise (· < ·)) (hne : l ≠ []) :
    ∃ m ∈ l, l.head? = some m ∧ ∀ k ∈ l, m ≤ k := by
  obtain ⟨m, hm, hhead, hfirst⟩ := exists_head_of_pairwise l hl hne
  exact ⟨m, hm, hhead, fun k hk => (hfirst k hk).elim Eq.ge Nat.le_of_lt⟩

/-- The requester of highest index comes last. -/
theorem exists_highest (l : List Nat) (hl : l.Pairwise (· < ·)) (hne : l ≠ []) :
    ∃ m ∈ l, l.getLast? = some m ∧ ∀ k ∈ l, k ≤ m := by
  obtain ⟨m, hm, hhead, hfirst⟩ :=
    exists_head_of_pairwise l.reverse (List.pairwise_reverse.2 hl) (List.reverse_ne_nil_iff.2 hne)
  refine ⟨m, List.mem_reverse.1 hm, List.head?_reverse ▸ hhead, fun k hk => ?_⟩
  exact (hfirst k (List.mem_reverse.2 hk)).elim Eq.le Nat.le_of_lt

/-! Registered fixed priority (R206). -/

section
variable (a : ArbReg) (i : ArbIn)

/-- A wait state or a lock keeps the owner (R203). -/
theorem fixedPriorityNext_hold (h : i.rdy = false ∨ lockFlag i.last = true) : fixedPriorityNext a i = a.owner := by
  unfold fixedPriorityNext
  obtain h | h := h <;> simp [h]

theorem fixedPriorityNext_decide (hrdy : i.rdy = true) (hlock : lockFlag i.last = false) :
    fixedPriorityNext a i = i.reqs.head?.or (parkedOwner a.owner i.downer) := by
  simp only [fixedPriorityNext, hrdy, hlock, Bool.true_eq_false, Bool.false_eq_true, if_false]
  cases i.reqs.head? <;> rfl

end

/-- Settles O34: past the hold, the first of the requesters in index order, or the fallback of R206. -/
theorem fixedPriorityDecision : Obligations.FixedPriorityDecision := by
  intro a i hsorted
  refine ⟨rfl, fixedPriorityNext_hold a i, fun hrdy hlock => ?_, rfl, rfl⟩
  have hdecide : (a.next .fixedPriority i).owner = _ := fixedPriorityNext_decide a i hrdy hlock
  rw [hdecide]
  constructor
  · intro hne
    obtain ⟨m, hm, hhead, hlowest⟩ := exists_lowest i.reqs hsorted hne
    exact ⟨m, hm, by rw [hhead]; rfl, hlowest⟩
  · intro hnone
    rw [hnone]; rfl

/-! The combinatorial variants (R207, R208). -/

/-- After a wait state the owner is kept. -/
theorem combOwner_hold (a : ArbReg) (downer pick : Option Nat) (h : a.prevReady = false) :
    combOwner a downer pick = a.owner := by
  simp [combOwner, h]

theorem combOwner_decide (a : ArbReg) (downer pick : Option Nat) (h : a.prevReady = true) :
    combOwner a downer pick = pick.or (parkedOwner a.owner downer) := by
  simp only [combOwner, h, Bool.true_eq_false, if_false]
  cases pick <;> rfl

/-- Both variants are `combOwner`, of the lowest requester or of the highest. -/
theorem own_combinatorial (a : ArbReg) (reqs : List Nat) (downer : Option Nat) (k : ArbKind)
    (hk : k = .combFixed ∨ k = .combFixedReversed) (hsorted : reqs.Pairwise (· < ·)) :
    ∃ pick, a.own k reqs downer = combOwner a downer pick ∧ (reqs = [] → pick = none) ∧
      (reqs ≠ [] → ∃ m ∈ reqs, pick = some m ∧
        ∀ j ∈ reqs, (k = .combFixed → m ≤ j) ∧ (k = .combFixedReversed → j ≤ m)) := by
  obtain rfl | rfl := hk
  · refine ⟨reqs.head?, rfl, List.head?_eq_none_iff.2, fun hne => ?_⟩
    obtain ⟨m, hm, hpick, hlowest⟩ := exists_lowest reqs hsorted hne
    exact ⟨m, hm, hpick, fun j hj => ⟨fun _ => hlowest j hj, nofun⟩⟩
  · refine ⟨reqs.getLast?, rfl, List.getLast?_eq_none_iff.2, fun hne => ?_⟩
    obtain ⟨m, hm, hpick, hhighest⟩ := exists_highest reqs hsorted hne
    exact ⟨m, hm, hpick, fun j hj => ⟨nofun, fun _ => hhighest j hj⟩⟩

theorem next_combinatorial (a : ArbReg) (i : ArbIn) (k : ArbKind) (hk : k = .combFixed ∨ k = .combFixedReversed) :
    a.next k i = { owner := a.own k i.reqs i.downer, ptr := a.ptr, prevReady := i.rdy } := by
  obtain rfl | rfl := hk <;> rfl

/-- Settles O35: past the hold, the requester that the variant picks in index order, or the fallback of R206. -/
theorem combinatorialDecision : Obligations.CombinatorialDecision := by
  intro a i k hk hsorted
  obtain ⟨pick, hown, hnone, hsome⟩ := own_combinatorial a i.reqs i.downer k hk hsorted
  refine ⟨fun hwait => hown.trans (combOwner_hold a _ _ hwait), fun hready => ?_, next_combinatorial a i k hk⟩
  rw [hown, combOwner_decide a i.downer pick hready]
  constructor
  · intro hne
    obtain ⟨m, hm, rfl, hbest⟩ := hsome hne
    exact ⟨m, hm, rfl, hbest⟩
  · intro hempty
    rw [hnone hempty]; rfl

/-! The scan of a round robin (R204). -/

/-- Where the scan starts: just after the last master decided for. -/
def scanStart : Option Nat → Nat
  | some p => p + 1
  | none => 0

theorem scanOrder_eq (ptr : Option Nat) (nm : Nat) :
    scanOrder ptr nm = List.range' (scanStart ptr) (nm - scanStart ptr) ++ List.range (scanStart ptr) := rfl

/-- The place of a master in the scan: past the start, or after the wrap. -/
def scanPlace (ptr : Option Nat) (nm m : Nat) : Nat :=
  if scanStart ptr ≤ m then m - scanStart ptr else m + (nm - scanStart ptr)

theorem mem_scanOrder (ptr : Option Nat) (nm m : Nat) : m ∈ scanOrder ptr nm ↔ m < nm ∨ m < scanStart ptr := by
  simp only [scanOrder_eq, List.mem_append, List.mem_range'_1, List.mem_range]
  omega

/-- The scan visits the masters in the order of their places. -/
theorem pairwise_scanOrder (ptr : Option Nat) (nm : Nat) :
    (scanOrder ptr nm).Pairwise fun m k => scanPlace ptr nm m < scanPlace ptr nm k := by
  rw [scanOrder_eq, List.pairwise_append]
  unfold scanPlace
  refine ⟨?_, ?_, fun m hm k hk => ?_⟩
  · refine (List.pairwise_lt_range' ..).imp_of_mem fun hm hk hlt => ?_
    rw [List.mem_range'_1] at hm hk
    rw [if_pos hm.1, if_pos hk.1]
    omega
  · refine List.pairwise_lt_range.imp_of_mem fun hm hk hlt => ?_
    rw [List.mem_range] at hm hk
    rw [if_neg (by omega), if_neg (by omega)]
    omega
  · rw [List.mem_range'_1] at hm
    rw [List.mem_range] at hk
    rw [if_pos hm.1, if_neg (by omega)]
    omega

/-- The distance from the start around the ring of the masters orders them as their places do. -/
theorem ringDistance_le_of_scanPlace_le (ptr : Option Nat) (nm m k : Nat) (hm : m < nm) (hk : k < nm)
    (h : scanPlace ptr nm m ≤ scanPlace ptr nm k) :
    (if scanStart ptr ≤ m then m - scanStart ptr else m + nm - scanStart ptr) ≤
      if scanStart ptr ≤ k then k - scanStart ptr else k + nm - scanStart ptr := by
  unfold scanPlace at h
  split at h <;> split at h <;> simp only [*, if_true, if_false] <;> omega

/-- A master's place is one of `nm`. -/
theorem scanPlace_lt (ptr : Option Nat) (nm m : Nat) (hm : m < nm) : scanPlace ptr nm m < nm := by
  unfold scanPlace
  split <;> omega

/-- A decision for another master, one before `m` in the scan, brings the scan nearer to `m`. -/
theorem scanPlace_decided_lt (ptr : Option Nat) (nm m k : Nat) (hm : m < nm) (hk : k ∈ scanOrder ptr nm)
    (hne : k ≠ m) (hle : scanPlace ptr nm k ≤ scanPlace ptr nm m) :
    scanPlace (some k) nm m < scanPlace ptr nm m := by
  rw [mem_scanOrder] at hk
  simp only [scanPlace, show scanStart (some k) = k + 1 from rfl] at hle ⊢
  split at hle <;> split at hle <;> split <;> omega

/-! Round robin (R204). -/

section
variable (a : ArbReg) (i : ArbIn)

/-- A wait state or a lock keeps the owner (R203). -/
theorem roundRobinNext_hold (h : i.rdy = false ∨ lockFlag i.last = true) : roundRobinNext a i = a.owner := by
  unfold roundRobinNext
  obtain h | h := h <;> simp [h]

/-- The owner follows a decision; the pointer follows every owner decided for. -/
theorem next_roundRobin :
    a.next .roundRobin i =
      { owner := roundRobinNext a i, ptr := (roundRobinNext a i).or a.ptr, prevReady := a.prevReady } := by
  simp only [ArbReg.next]
  cases roundRobinNext a i <;> rfl

variable (hrdy : i.rdy = true) (hlock : lockFlag i.last = false)
include hrdy hlock

theorem roundRobinNext_decide :
    roundRobinNext a i =
      ((scanOrder a.ptr i.nm).filter fun m => i.reqs.contains m).head?.or (if isIdle i.last then a.owner else none) := by
  simp only [roundRobinNext, hrdy, hlock, Bool.true_eq_false, Bool.false_eq_true, if_false, List.head?_filter]
  cases (scanOrder a.ptr i.nm).find? fun m => i.reqs.contains m <;> rfl

/-- With a requester among the masters, the decision is for the requester of the first place in the scan. -/
theorem roundRobinNext_of_request (m : Nat) (hm : m ∈ i.reqs) (hlt : m < i.nm) :
    ∃ k ∈ i.reqs, roundRobinNext a i = some k ∧ k ∈ scanOrder a.ptr i.nm ∧
      ∀ j ∈ i.reqs, j < i.nm → scanPlace a.ptr i.nm k ≤ scanPlace a.ptr i.nm j := by
  have hmem (j : Nat) : j ∈ (scanOrder a.ptr i.nm).filter (fun m => i.reqs.contains m) ↔
      j ∈ scanOrder a.ptr i.nm ∧ j ∈ i.reqs := by simp
  have hscan {j : Nat} (hj : j < i.nm) : j ∈ scanOrder a.ptr i.nm := (mem_scanOrder _ _ _).2 (.inl hj)
  obtain ⟨k, hk, hhead, hfirst⟩ := exists_head_of_pairwise _ ((pairwise_scanOrder a.ptr i.nm).filter _)
    (List.ne_nil_of_mem ((hmem m).2 ⟨hscan hlt, hm⟩))
  obtain ⟨hkscan, hkreq⟩ := (hmem k).1 hk
  refine ⟨k, hkreq, ?_, hkscan, fun j hj hjlt => ?_⟩
  · rw [roundRobinNext_decide a i hrdy hlock, hhead]; rfl
  · obtain rfl | hlt := hfirst j ((hmem j).2 ⟨hscan hjlt, hj⟩)
    · exact Nat.le_refl _
    · exact hlt.le

/-- With no requester the arbiter parks on an idle owner (R205). -/
theorem roundRobinNext_of_no_request (hreqs : i.reqs = []) :
    roundRobinNext a i = if i.last.ctl = .idle then a.owner else none := by
  have hidle : isIdle i.last = true ↔ i.last.ctl = .idle := by
    unfold isIdle
    cases i.last.ctl <;> simp
  simp [roundRobinNext_decide a i hrdy hlock, hreqs, hidle]

end

/-- Settles O33: the decision takes the first place in the scan; the distance that the statement measures around the ring
orders the masters as their places do. -/
theorem roundRobinDecision : Obligations.RoundRobinDecision := by
  intro a i hreqs start gap b
  have hb : b = _ := next_roundRobin a i
  have hgap {m k : Nat} (hm : m < i.nm) (hk : k < i.nm) (h : scanPlace a.ptr i.nm m ≤ scanPlace a.ptr i.nm k) :
      gap m ≤ gap k := ringDistance_le_of_scanPlace_le a.ptr i.nm m k hm hk h
  rw [hb]
  refine ⟨rfl, roundRobinNext_hold a i, fun hrdy hlock => ⟨fun hne => ?_, ?_⟩, ?_, rfl⟩
  · obtain ⟨r, hr⟩ := List.exists_mem_of_ne_nil _ hne
    obtain ⟨m, hm, hdecision, -, hfirst⟩ := roundRobinNext_of_request a i hrdy hlock r hr (hreqs r hr)
    exact ⟨m, hm, hdecision, fun k hk => hgap (hreqs m hm) (hreqs k hk) (hfirst k hk (hreqs k hk))⟩
  · exact roundRobinNext_of_no_request a i hrdy hlock
  · cases roundRobinNext a i <;> rfl

/-! Fairness (R211). -/

/-- The inputs of a cycle of `nm` masters that decides (R203), `m` among the requesters. -/
abbrev RequestedAndReady (nm m : Nat) (i : ArbIn) : Prop :=
  i.nm = nm ∧ i.rdy = true ∧ lockFlag i.last = false ∧ m ∈ i.reqs

/-- Such a cycle decides for `m`, or leaves `m` nearer to the start of the scan. -/
theorem decided_or_nearer (a : ArbReg) (i : ArbIn) (nm m : Nat) (hm : m < nm) (hi : RequestedAndReady nm m i) :
    (a.next .roundRobin i).owner = some m ∨
      scanPlace (a.next .roundRobin i).ptr nm m < scanPlace a.ptr nm m := by
  obtain ⟨rfl, hrdy, hlock, hreq⟩ := hi
  obtain ⟨k, -, hdecision, hscan, hfirst⟩ := roundRobinNext_of_request a i hrdy hlock m hreq hm
  rw [next_roundRobin, hdecision]
  by_cases hkm : k = m
  · exact .inl (congrArg some hkm)
  · exact .inr (scanPlace_decided_lt a.ptr i.nm m k hm hscan hkm (hfirst m hreq hm))

/-- So the decision for `m` comes within as many cycles as its place. -/
theorem mem_arbDecisions_of_scanPlace_lt (nm m : Nat) (hm : m < nm) (is : List ArbIn) (a : ArbReg)
    (hplace : scanPlace a.ptr nm m < is.length) (his : ∀ i ∈ is, RequestedAndReady nm m i) :
    some m ∈ arbDecisions .roundRobin a is := by
  induction is generalizing a with
  | nil => exact absurd hplace (Nat.not_lt_zero _)
  | cons i is ih =>
    obtain ⟨hi, his⟩ := List.forall_mem_cons.1 his
    rw [arbDecisions, List.mem_cons]
    obtain hdecided | hnearer := decided_or_nearer a i nm m hm hi
    · exact .inl hdecided.symm
    · exact .inr (ih _ (lt_of_lt_of_le hnearer (Nat.lt_succ_iff.1 hplace)) his)

/-- Settles O32: every place in a scan of `N` masters is below `N`. -/
theorem roundRobinFairness : Obligations.RoundRobinFairness := by
  refine ⟨fun a m N is hm hlen his => ?_, fun a i hwait => ?_⟩
  · exact mem_arbDecisions_of_scanPlace_lt N m hm is a (hlen ▸ scanPlace_lt a.ptr N m hm) his
  · exact roundRobinNext_hold a i (.inl hwait)

end Sys2Proof.Machine
end

section
/-! PROOFS. The input stages (43_input_stage.md R245 to R247). The registers at the two ends of a data phase stay in step
because both ends wait in the same cycles: a master with a data phase is committed exactly when the port that has it is
ready (R241). So at either end a data phase is at a port after the edge if that port grants, or if it waits there. -/

namespace Sys2Proof.Machine

/-! What a grant, and the lack of a commitment, say of a cycle. -/

/-- A port grants a committed transfer for it, and no other (R186, R264). -/
theorem target_committed_of_portGrant (c : Cycle) (m : Nat) (x : Target) (h : c.portGrant m x = some .grant) :
    c.target m = some x ∧ c.committed m = true := by
  cases x with
  | slave n =>
    obtain ⟨-, htarget, hcommitted, -⟩ := (acc_eq_some c n m).1 ((portGrant_slave_grant_iff c m n).1 h)
    exact ⟨htarget, hcommitted⟩
  | dflt =>
    obtain ⟨htarget, hcommitted, -⟩ := (portGrant_dflt_grant_iff c m).1 h
    exact ⟨htarget, hcommitted⟩

theorem grant_of_portGrant (c : Cycle) (m : Nat) (x : Target) (h : c.portGrant m x = some .grant) :
    c.grant m = some .grant := by
  obtain ⟨htarget, -⟩ := target_committed_of_portGrant c m x h
  rw [Cycle.grant, htarget]
  exact h

/-- A known grant value is that of the candidate's target, so the candidate is a transfer (R265). -/
theorem isXfer_cand_of_grant (c : Cycle) (m : Nat) (g : Grant) (h : c.grant m = some g) :
    isXfer (c.cand m) = true := by
  cases htarget : c.target m with
  | none => rw [grant_of_no_target c m htarget] at h; cases h
  | some x => exact isXfer_cand_of_target c m x htarget

section
variable (c : Cycle) (m : Nat) (hwait : c.committed m = false)
include hwait

theorem portGrant_ne_grant_of_uncommitted (x : Target) : c.portGrant m x ≠ some .grant := by
  intro hgrant
  obtain ⟨-, hcommitted⟩ := target_committed_of_portGrant c m x hgrant
  rw [hwait] at hcommitted
  cases hcommitted

theorem nextMaster_is_of_uncommitted : (c.nextMaster m).is = (c.st.master m).is := by
  rw [nextMaster_is, hwait]
  rfl

theorem stageFault_of_uncommitted : c.stageFault m = none := by
  rw [Cycle.stageFault, hwait]
  simp [ISReg.fault]

end

/-- Settles O27: what is not committed is not checked, and no port grants it. -/
theorem uncommittedIsNeverSampled : Obligations.UncommittedIsNeverSampled := by
  intro s t inp m hm hrun hwait
  obtain ⟨-, -, rfl⟩ := runCycle_next s t inp hrun
  have hgrant := portGrant_ne_grant_of_uncommitted _ m hwait
  refine ⟨stageFault_of_uncommitted _ m hwait, ?_, hgrant, fun n hacc => ?_⟩
  · rw [edge_master _ m hm]
    exact nextMaster_is_of_uncommitted _ m hwait
  · exact hgrant (.slave n) ((portGrant_slave_grant_iff _ m n).2 hacc)

/-! The registers of a data phase after the edge, each end for itself. -/

/-- What an input stage holds after the edge is the candidate of this cycle, or was held before (R246). -/
theorem nextMaster_held_cases (c : Cycle) (m : Nat) :
    (c.nextMaster m).is.held = none ∨
      (c.committed m = true ∧ isXfer (c.cand m) = true ∧
        (c.nextMaster m).is = { held := some (c.cand m), dpt := none }) ∨
      (c.committed m = false ∧ (c.nextMaster m).is = (c.st.master m).is) := by
  cases hcommitted : c.committed m with
  | false => exact .inr (.inr ⟨rfl, nextMaster_is_of_uncommitted c m hcommitted⟩)
  | true =>
    rw [nextMaster_is, hcommitted]
    obtain ⟨-, hnext⟩ | ⟨-, -, hnext⟩ | ⟨hcand, hnext⟩ :=
      isReg_next_of_committed (c.st.master m).is (c.cand m) (c.target m) (c.grant m)
    · exact .inl (congrArg ISReg.held hnext)
    · exact .inl (congrArg ISReg.held hnext)
    · exact .inr (.inl ⟨rfl, hcand, hnext⟩)

theorem nextMaster_is_of_denied (c : Cycle) (m : Nat) (hcommitted : c.committed m = true)
    (hdeny : c.grant m = some .deny) : (c.nextMaster m).is = { held := some (c.cand m), dpt := none } := by
  simp [ISReg.next, hcommitted, isXfer_cand_of_grant c m _ hdeny, hdeny]

/-- The input stage's end (R246). -/
theorem nextMaster_dpt_iff (c : Cycle) (m : Nat) (x : Target) :
    (c.nextMaster m).is.dpt = some x ↔
      c.portGrant m x = some .grant ∨ (c.committed m = false ∧ (c.st.master m).is.dpt = some x) := by
  by_cases hgrant : c.grant m = some .grant
  · obtain ⟨y, htarget, hport, hcommitted⟩ := target_of_grant c m hgrant
    rw [nextMaster_is_of_grant c m hgrant, htarget]
    have hiff : c.portGrant m x = some .grant ↔ y = x := by
      refine ⟨fun hx => ?_, fun hyx => hyx ▸ hport⟩
      obtain ⟨htarget', -⟩ := target_committed_of_portGrant c m x hx
      exact Option.some.inj (htarget.symm.trans htarget')
    simp [hcommitted, hiff]
  · have hport : c.portGrant m x ≠ some .grant := mt (grant_of_portGrant c m x) hgrant
    cases hcommitted : c.committed m with
    | false => simp [ISReg.next, hcommitted, hport]
    | true =>
      simp only [nextMaster_is, ISReg.next, hcommitted, hgrant, if_true, if_false]
      split <;> simp [hport]

/-- The output stage's end (R269). -/
theorem nextSlave_downer_iff (c : Cycle) (n m : Nat) :
    (c.nextSlave n).downer = some m ↔ c.acc n = some m ∨ (c.rdy n = false ∧ (c.st.slave n).downer = some m) := by
  rw [nextSlave_downer, downerNext]
  cases hrdy : c.rdy n with
  | true => simp
  | false =>
    have hacc : c.acc n ≠ some m := fun hacc => by
      obtain ⟨-, -, -, hready⟩ := (acc_eq_some c n m).1 hacc
      rw [hrdy] at hready
      cases hready
    simp [hacc]

/-- The default slave's: only its first error cycle waits (R186). -/
theorem nextMaster_dflt_ne_idle_iff (c : Cycle) (m : Nat) :
    (c.nextMaster m).dflt ≠ .idle ↔
      c.portGrant m .dflt = some .grant ∨ hready (c.st.master m).dflt.response = false := by
  rw [nextMaster_dflt]
  by_cases hgrant : c.portGrant m .dflt = some .grant
  · simp [DefPhase.next, hgrant]
  · cases (c.st.master m).dflt <;> simp [DefPhase.next, hgrant, DefPhase.response, hready, statusReady, idleResp]

/-! Both ends wait in the same cycles. -/

/-- A data phase at an output stage commits its master exactly when the stage is ready (R241, R260, R268). -/
theorem committed_of_slave_phase (c : Cycle) (m n : Nat) (hdpt : (c.st.master m).is.dpt = some (.slave n))
    (hdowner : (c.st.slave n).downer = some m) : c.committed m = c.rdy n := by
  simp [Cycle.committed, ISReg.committed, hdpt, Cycle.portResp, dispatched, hdowner, Cycle.rdy]

/-- One at the default slave, exactly when the default slave is ready. -/
theorem committed_of_dflt_phase (c : Cycle) (m : Nat) (hdpt : (c.st.master m).is.dpt = some .dflt)
    (hddowner : (c.st.master m).ddowner = some m) : c.committed m = hready (c.st.master m).dflt.response := by
  simp [Cycle.committed, ISReg.committed, hdpt, portResp_dflt, hddowner]

section
variable (c : Cycle) (m : Nat) (hroute : RouteInvariant c.st) (hm : m < c.st.cfg.nm)
include hroute hm

theorem waiting_at_slave_iff (n : Nat) (hn : n < c.st.cfg.ns) :
    (c.committed m = false ∧ (c.st.master m).is.dpt = some (.slave n)) ↔
      (c.rdy n = false ∧ (c.st.slave n).downer = some m) := by
  obtain ⟨-, hmasters, -⟩ := hroute
  obtain ⟨-, -, -, -, -, howner⟩ := hmasters m hm
  rw [howner n hn]
  refine and_congr_left fun hdowner => ?_
  rw [committed_of_slave_phase c m n ((howner n hn).2 hdowner) hdowner]

theorem waiting_at_dflt_iff :
    (c.committed m = false ∧ (c.st.master m).is.dpt = some .dflt) ↔
      hready (c.st.master m).dflt.response = false := by
  obtain ⟨-, hmasters, -⟩ := hroute
  obtain ⟨-, -, -, hdflt, hddowner, -⟩ := hmasters m hm
  by_cases hdpt : (c.st.master m).is.dpt = some .dflt
  · rw [if_pos hdpt] at hddowner
    simp [hdpt, committed_of_dflt_phase c m hdpt hddowner]
  · rw [not_ne_iff.1 (mt hdflt.2 hdpt)]
    simp [hdpt, DefPhase.response, hready, statusReady, idleResp]

/-! So the two ends of a data phase name each other after the edge (R247 (3)). -/

theorem nextMaster_dpt_slave_iff (n : Nat) (hn : n < c.st.cfg.ns) :
    (c.nextMaster m).is.dpt = some (.slave n) ↔ (c.nextSlave n).downer = some m := by
  rw [nextMaster_dpt_iff, nextSlave_downer_iff, portGrant_slave_grant_iff, waiting_at_slave_iff c m hroute hm n hn]

theorem nextMaster_dpt_dflt_iff :
    (c.nextMaster m).is.dpt = some .dflt ↔
      c.portGrant m .dflt = some .grant ∨ hready (c.st.master m).dflt.response = false := by
  rw [nextMaster_dpt_iff, waiting_at_dflt_iff c m hroute hm]

/-- The stage inside the default slave's path has its master's data phase while the default slave has it (R44). -/
theorem nextMaster_ddowner_eq :
    (c.nextMaster m).ddowner = if (c.nextMaster m).is.dpt = some .dflt then some m else none := by
  simp only [nextMaster_dpt_dflt_iff c m hroute hm]
  rw [nextMaster_ddowner, downerNext, Cycle.dfltAcc]
  cases hready : hready (c.st.master m).dflt.response with
  | true => simp
  | false =>
    obtain ⟨-, hdpt⟩ := (waiting_at_dflt_iff c m hroute hm).2 hready
    obtain ⟨-, hmasters, -⟩ := hroute
    obtain ⟨-, -, -, -, hddowner, -⟩ := hmasters m hm
    simp [hddowner, hdpt]

/-! The other clauses of R247. -/

theorem nextMaster_held_excludes_dpt (hheld : (c.nextMaster m).is.held ≠ none) : (c.nextMaster m).is.dpt = none := by
  obtain hnone | ⟨-, -, hnext⟩ | ⟨-, hkept⟩ := nextMaster_held_cases c m
  · exact absurd hnone hheld
  · rw [hnext]
  · obtain ⟨-, hmasters, -⟩ := hroute
    obtain ⟨hexcl, -⟩ := hmasters m hm
    rw [hkept] at hheld ⊢
    exact hexcl hheld

/-- What is held after the edge passed the checks of this cycle, or of the one that held it first (R247 (2)). -/
theorem nextMaster_heldPasses (hstop : c.stop = none) :
    heldPasses c.st.cfg m (c.nextMaster m).is.held = true := by
  obtain ⟨-, hmasters, -⟩ := hroute
  obtain ⟨-, hheld, -⟩ := hmasters m hm
  obtain hnone | ⟨hcommitted, hcand, hnext⟩ | ⟨-, hkept⟩ := nextMaster_held_cases c m
  · rw [hnone]; rfl
  · obtain ⟨x, hx⟩ := Option.isSome_iff_exists.1 hcand
    rw [hnext]
    simpa [heldPasses, hx] using cand_checked c m x hstop hm hheld hcommitted hx
  · rw [hkept]; exact hheld

theorem nextMaster_knownTarget : knownTarget c.st.cfg (c.nextMaster m).is.dpt = true := by
  cases hdpt : (c.nextMaster m).is.dpt with
  | none => rfl
  | some x =>
    cases x with
    | dflt => rfl
    | slave n =>
      refine decide_eq_true ?_
      obtain hgrant | ⟨-, hold⟩ := (nextMaster_dpt_iff c m (.slave n)).1 hdpt
      · obtain ⟨hown, -⟩ := (acc_eq_some c n m).1 ((portGrant_slave_grant_iff c m n).1 hgrant)
        exact lt_ns_of_own c n m hown
      · obtain ⟨-, hmasters, -⟩ := hroute
        obtain ⟨-, -, hknown, -⟩ := hmasters m hm
        simpa [knownTarget, hold] using hknown

end

/-- Whoever has a data phase at an output stage is a master. -/
theorem lt_nm_of_nextSlave_downer (c : Cycle) (n m : Nat) (hroute : RouteInvariant c.st) (hn : n < c.st.cfg.ns)
    (h : (c.nextSlave n).downer = some m) : m < c.st.cfg.nm := by
  obtain hacc | ⟨-, hold⟩ := (nextSlave_downer_iff c n m).1 h
  · obtain ⟨-, htarget, -⟩ := (acc_eq_some c n m).1 hacc
    exact lt_nm_of_target c m _ htarget
  · obtain ⟨-, -, howners⟩ := hroute
    exact howners n hn m hold

theorem shaped_edge (c : Cycle) : Shaped c.edge := by
  refine ⟨by simp [Cycle.masterIds], by simp [Cycle.slaveIds], by simp [Cycle.masterIds], by simp [Cycle.slaveIds],
    fun n hn => ?_⟩
  rw [edge_cfg] at hn
  simp [Cycle.slaveIds, List.getD_eq_getElem?_getD, hn, Cycle.nextMonitors, Cycle.wires, chainWires_length]

/-- R247 for a cycle that does not stop, whatever the agents do in it. -/
theorem routeInvariant_edge (c : Cycle) (hstop : c.stop = none) (hroute : RouteInvariant c.st) :
    RouteInvariant c.edge := by
  refine ⟨shaped_edge c, fun m hm => ?_, fun n hn m hdowner => ?_⟩
  · rw [edge_cfg] at hm ⊢
    rw [edge_master c m hm]
    refine ⟨nextMaster_held_excludes_dpt c m hroute hm, nextMaster_heldPasses c m hroute hm hstop,
      nextMaster_knownTarget c m hroute hm, ?_, nextMaster_ddowner_eq c m hroute hm, fun n hn => ?_⟩
    · rw [nextMaster_dpt_dflt_iff c m hroute hm, nextMaster_dflt_ne_idle_iff]
    · rw [edge_slave c n hn]
      exact nextMaster_dpt_slave_iff c m hroute hm n hn
  · rw [edge_cfg] at hn ⊢
    rw [edge_slave c n hn] at hdowner
    exact lt_nm_of_nextSlave_downer c n m hroute hn hdowner

/-- Settles O16, by the two things a step can be: the reset, or the edge of a cycle that does not stop. -/
theorem routeInvariantKept : Obligations.RouteInvariantKept := by
  refine ⟨routeInvariant_resetOf, fun s t hroute h => ?_⟩
  obtain ⟨-, -, rfl⟩ | ⟨-, inp, hcycle⟩ := step_next s t h
  · exact routeInvariant_resetOf _ _
  · obtain ⟨-, hstop, rfl⟩ := runCycle_next s t inp hcycle
    exact routeInvariant_edge _ hstop hroute

/-! A held address phase (R242, R243). -/

/-- While an address phase is held its master waits, and is offered nothing but that address phase. -/
theorem signals_of_held (c : Cycle) (m : Nat) (a : AP) (h : (c.st.master m).is = { held := some a, dpt := none }) :
    c.resp m = { status := .pending, data := .absent } ∧ c.committed m = true ∧ c.cand m = { a with ready := true } := by
  have hcommitted : c.committed m = true := by rw [Cycle.committed, h]; rfl
  refine ⟨by rw [Cycle.resp, h]; rfl, hcommitted, ?_⟩
  rw [cand_of_held c m a (by rw [h]), hcommitted]

/-- Settles O26: the input stage holds what was denied, and R247 for the next state leaves its master no data phase. -/
theorem deniedTransferIsHeld : Obligations.DeniedTransferIsHeld := by
  intro s t inp m hroute hm hrun hdeny hcommitted
  obtain ⟨-, hstop, rfl⟩ := runCycle_next s t inp hrun
  have his := nextMaster_is_of_denied _ m hcommitted hdeny
  rw [← edge_master _ m hm] at his
  refine ⟨his, fun n hn hdowner => ?_, fun inp' => ?_⟩
  · obtain ⟨-, hmasters, -⟩ := routeInvariant_edge _ hstop hroute
    obtain ⟨-, -, -, -, -, howner⟩ := hmasters m hm
    rw [← howner n hn, his] at hdowner
    cases hdowner
  · obtain ⟨hresp, hready, hcand⟩ := signals_of_held ⟨_, inp'⟩ m _ his
    refine ⟨hresp, hready, hcand.trans ?_⟩
    rw [← hcommitted, ← cand_ready]

end Sys2Proof.Machine
end

section
/-! PROOFS. The output stages (44_output_stage.md): who is answered by a grant (R265, R266), what a stage forwards (R263),
and to whom it dispatches its slave's response (R268). -/

namespace Sys2Proof.Machine

/-! The grants a master receives (R265, R266). -/

/-- A port drives a grant value to the masters that request it, and to no others (R186, R265). -/
theorem portGrant_eq_none_iff (c : Cycle) (m : Nat) (x : Target) : c.portGrant m x = none ↔ c.target m ≠ some x := by
  cases x with
  | slave n =>
    rw [portGrant_slave]
    by_cases htarget : c.target m = some (.slave n)
    · by_cases hacc : c.acc n = some m <;> simp [htarget, hacc]
    · simp [htarget]
  | dflt =>
    rw [portGrant_dflt]
    by_cases htarget : c.target m = some .dflt
    · by_cases hgrants : c.committed m && hready (c.st.master m).dflt.response <;> simp [htarget, hgrants]
    · simp [htarget]

/-- A grant value that is driven is one of two. -/
theorem grant_or_deny_of_ne_none (g : Option Grant) (h : g ≠ none) : g = some .grant ∨ g = some .deny := by
  match g with
  | none => exact absurd rfl h
  | some .grant => exact .inl rfl
  | some .deny => exact .inr rfl

/-- Settles O22: a port drives a grant value exactly when it is the master's target, and a master has one target. -/
theorem grantTotality : Obligations.GrantTotality := by
  refine fun c m => ⟨fun x htarget => ⟨?_, fun y hy => ?_⟩, fun hnone y => ?_, missingGrant_eq_none c m⟩
  · exact grant_or_deny_of_ne_none _ fun hgrant => (portGrant_eq_none_iff c m x).1 hgrant htarget
  · exact (portGrant_eq_none_iff c m y).2 fun hother => hy (Option.some.inj (hother.symm.trans htarget))
  · exact (portGrant_eq_none_iff c m y).2 (by simp [hnone])

/-! The address phase an output stage forwards (R263). -/

/-- The slave side of an output stage never sees `NoSel`: its owner's transfer is no `NoSel`, nor is Idle. -/
theorem stageAP_ctl_ne_noSel (c : Cycle) (n : Nat) : (c.stageAP n).ctl ≠ .noSel := by
  obtain ⟨o, -, htarget, -, hap⟩ | hidle := stageAP_cases c n
  · obtain ⟨x, hx⟩ := (isXfer_iff _).1 (isXfer_cand_of_target c o _ htarget)
    simp [hap, hx]
  · simp [hidle]

/-- Settles O24, by the two things an output stage can forward. -/
theorem forwardedPhaseIsCommitted : Obligations.ForwardedPhaseIsCommitted := by
  refine fun c n => ⟨stageAP_of_transfer c n, fun hnone => ?_, stageAP_ctl_ne_noSel c n⟩
  obtain ⟨o, hown, htarget, hcommitted, -⟩ | hidle := stageAP_cases c n
  · exact absurd ⟨htarget, hcommitted⟩ (hnone o hown)
  · exact hidle

/-! The responses an output stage dispatches (R268). -/

theorem portResp_slave_of_owner (c : Cycle) (n m : Nat) (h : (c.st.slave n).downer = some m) :
    c.portResp m (.slave n) = c.stageResp n := if_pos h

theorem portResp_slave_of_not_owner (c : Cycle) (n m : Nat) (h : (c.st.slave n).downer ≠ some m) :
    c.portResp m (.slave n) = idleResp := if_neg h

/-- Any response but the idle one is a violation while nobody owns the data route. -/
theorem strayResponse_of_no_owner (c : Cycle) (n : Nat) (howner : (c.st.slave n).downer = none)
    (hresp : c.stageResp n ≠ idleResp) :
    c.strayResponse n = some (.violation .idleResponse c.st.cycle (.outputStage n)) := by
  simp [Cycle.strayResponse, Machine.strayResponse, Cycle.violationIf, howner, hresp]

/-- No port dispatches to a master what a slave answers whose data route it does not own. -/
theorem portResp_congr_of_not_owner (s : State) (i j : CycleInput) (n m : Nat)
    (hothers : ∀ k, k ≠ n → ({ st := s, inp := i } : Cycle).slaveResp k = ({ st := s, inp := j } : Cycle).slaveResp k)
    (hm : (s.slave n).downer ≠ some m) :
    ({ st := s, inp := i } : Cycle).portResp m = ({ st := s, inp := j } : Cycle).portResp m := by
  funext x
  cases x with
  | dflt => rfl
  | slave k =>
    by_cases hk : k = n
    · rw [hk, portResp_slave_of_not_owner _ n m hm, portResp_slave_of_not_owner _ n m hm]
    · simp only [Cycle.portResp, Cycle.stageResp, hothers k hk]

/-- Settles O28: a master's response and HREADY are functions of its registers and of what the ports dispatch to it. -/
theorem responseReachesItsMasterOnly : Obligations.ResponseReachesItsMasterOnly := by
  refine ⟨fun c n m => ⟨portResp_slave_of_owner c n m, portResp_slave_of_not_owner c n m,
    strayResponse_of_no_owner c n⟩, ?_⟩
  rintro ⟨s, i⟩ ⟨_, j⟩ n m rfl hothers hm
  have hport := portResp_congr_of_not_owner s i j n m hothers hm
  exact ⟨congrArg (s.master m).is.response hport, congrArg (s.master m).is.committed hport⟩

end Sys2Proof.Machine
end

section
/-! PROOFS. The line buffer (45_line_buffer.md R290 to R302): the class of an address phase and the registers each class
leaves (R292, R301), the lines and their sub-ranges (R74, R294), and the stop of a sampled write (R293, R399). -/

namespace Sys2Proof.Machine

/-! The response to an upstream data phase (R297, R298). -/

section
variable (r : LBReg) (rd : Resp)

theorem lb_up_of_transparent (hst : r.st = .transparent) : r.up rd = rd := by
  simp [LBReg.up, hst]

theorem lb_up_of_localHit (hst : r.st = .localHit) :
    r.up rd = { status := .success, data := extract r.line r.off (sizeBytes r.rsize) } := by
  simp [LBReg.up, hst]

theorem lb_up_of_fetched (hst : r.st = .fetching) (hrd : rd.status = .success) :
    r.up rd = { status := .success, data := extract (carriedBytes rd.data) r.off (sizeBytes r.rsize) } := by
  simp [LBReg.up, hst, hrd]

theorem lb_up_of_failed_fetch (hst : r.st = .fetching) (hrd : rd.status ≠ .success) :
    r.up rd = { status := rd.status, data := .absent } := by
  simp [LBReg.up, hst, hrd]

/-! The fill (R295, R301). -/

theorem lb_fill_of_fetched (hst : r.st = .fetching) (hrd : rd.status = .success) :
    r.fill rd = { r with valid := true, laddr := r.faddr, line := carriedBytes rd.data } := by
  simp [LBReg.fill, hst, hrd]

theorem lb_fill_of_not_fetching (hst : r.st ≠ .fetching) : r.fill rd = r := by
  simp [LBReg.fill, hst]

@[simp] theorem lb_fill_enabled : (r.fill rd).enabled = r.enabled := by
  unfold LBReg.fill
  split <;> rfl

theorem lb_hit_iff (L : Nat) (b : Addr) :
    r.hit L b rd = true ↔ (r.fill rd).valid = true ∧ (r.fill rd).laddr = alignDown b L := by
  simp [LBReg.hit, lb_postFill_eq_fill]

end

/-! The class of an address phase (R292). -/

theorem lb_classify_idle (r : LBReg) (L : Nat) (a : AP) (rd : Resp) (hx : xferOf a = none) :
    r.classify L a rd = .idle := by
  simp [LBReg.classify, hx]

section
variable (r : LBReg) (L : Nat) (a : AP) (rd : Resp) {x : Xfer} (hx : xferOf a = some x)
include hx

theorem lb_classify_write (hw : x.write = true) : r.classify L a rd = .write := by
  simp [LBReg.classify, hx, hw]

theorem lb_classify_read (hw : x.write = false) :
    r.classify L a rd =
      if x.prot.cacheable = false ∨ r.enabled = false then .pass
      else if r.hit L x.addr rd then .hit else .miss := by
  simp [LBReg.classify, hx, hw]

theorem lb_classify_eq_pass_iff (hw : x.write = false) :
    r.classify L a rd = .pass ↔ x.prot.cacheable = false ∨ r.enabled = false := by
  rw [lb_classify_read r L a rd hx hw]
  by_cases hpass : x.prot.cacheable = false ∨ r.enabled = false
  · simp [hpass]
  · cases hhit : r.hit L x.addr rd <;> simp [hpass]

/-- A cacheable read of the line the fill leaves is a hit while the cache is on. -/
theorem lb_classify_hit (hw : x.write = false) (hcacheable : x.prot.cacheable = true) (hon : r.enabled = true)
    (hvalid : (r.fill rd).valid = true) (hline : (r.fill rd).laddr = alignDown x.addr L) :
    r.classify L a rd = .hit := by
  have hhit := (lb_hit_iff r rd L x.addr).2 ⟨hvalid, hline⟩
  simp [lb_classify_read r L a rd hx hw, hcacheable, hon, hhit]

end

/-- A miss is of a read, and only while the cache is on. -/
theorem lb_enabled_of_miss (r : LBReg) (L : Nat) (a : AP) (rd : Resp) (hclass : r.classify L a rd = .miss) :
    r.enabled = true := by
  obtain ⟨-, hc⟩ | ⟨x, hx, ⟨-, hc⟩ | ⟨hw, -⟩⟩ := lb_classify_cases r L a rd
  · simp [hc] at hclass
  · simp [hc] at hclass
  · have hpass : r.classify L a rd ≠ .pass := by simp [hclass]
    simp only [ne_eq, lb_classify_eq_pass_iff r L a rd hx hw, not_or, Bool.not_eq_false] at hpass
    exact hpass.2

/-! What goes downstream (R296, R299). -/

section
variable (r : LBReg) (L : Nat) (a : AP) (rd : Resp)

theorem lb_down_of_write (hclass : r.classify L a rd = .write) : (r.down L a rd).ap.ctl = a.ctl := by
  simp [LBReg.down, hclass]

theorem lb_down_of_hit (hclass : r.classify L a rd = .hit) : (r.down L a rd).ap.ctl = .idle := by
  simp [LBReg.down, hclass]

theorem lb_down_of_pass (hclass : r.classify L a rd = .pass) :
    r.down L a rd = { ap := { ctl := a.ctl, ready := hready rd, tag := a.tag }, dp := .absent } := by
  simp [LBReg.down, hclass]

theorem lb_down_of_miss {x : Xfer} (hx : xferOf a = some x) (hclass : r.classify L a rd = .miss) :
    (r.down L a rd).ap.ctl = .xfer (fetchXfer L x) := by
  simp [LBReg.down, hclass, hx]

end

/-! The registers at the edge (R300, R301). -/

section
variable (r : LBReg) (L : Nat) (a : AP) (rd : Resp)

@[simp] theorem lb_toggle_none : r.toggle none = r := rfl

@[simp] theorem lb_sample_enabled (cls : LBClass) (x : Option Xfer) : (r.sample L cls x).enabled = r.enabled := by
  cases cls <;> cases x <;> rfl

/-- A request for the enable acts on the registers of the same edge without one. -/
theorem lb_next_eq_toggle (en : Option Bool) : r.next L a rd en = (r.next L a rd none).toggle en := rfl

@[simp] theorem lb_next_enabled : (r.next L a rd none).enabled = r.enabled := by
  unfold LBReg.next
  split <;> simp

theorem lb_next_valid : (r.next L a rd none).valid = (r.fill rd).valid := by
  unfold LBReg.next
  split <;> simp

section
variable (hready : hready (r.up rd) = true)
include hready

theorem lb_next_of_no_transfer (hx : xferOf a = none) :
    r.next L a rd none = { r.fill rd with st := .idle } := by
  rw [lb_next_of_ready r L a rd none hready, lb_classify_idle r L a rd hx, hx]
  rfl

theorem lb_next_of_pass (hclass : r.classify L a rd = .pass) :
    r.next L a rd none = { r.fill rd with st := .transparent } := by
  rw [lb_next_of_ready r L a rd none hready, hclass]
  rfl

theorem lb_next_of_hit {x : Xfer} (hx : xferOf a = some x) (hclass : r.classify L a rd = .hit) :
    r.next L a rd none = { r.fill rd with st := .localHit, off := lineOffset x.addr L, rsize := x.size } := by
  rw [lb_next_of_ready r L a rd none hready, hclass, hx]
  rfl

theorem lb_next_of_miss {x : Xfer} (hx : xferOf a = some x) (hclass : r.classify L a rd = .miss) :
    r.next L a rd none =
      { r.fill rd with
        st := .fetching, off := lineOffset x.addr L, rsize := x.size, faddr := alignDown x.addr L } := by
  rw [lb_next_of_ready r L a rd none hready, hclass, hx]
  rfl

end
end

/-! A fetch that fails (R298, R301), and the enable (R300). -/

/-- A fetch that has not ended is not sampled over. -/
theorem lb_next_of_unended_fetch (r : LBReg) (L : Nat) (a : AP) (rd : Resp) (hst : r.st = .fetching)
    (hrd : rd.status = .pending ∨ rd.status = .error1) : r.next L a rd none = r := by
  have hwaiting : hready (r.up rd) = false := by
    obtain h | h := hrd <;> simp [lb_up_of_failed_fetch r rd hst, hready, statusReady, h]
  exact (lb_next_of_waiting r L a rd none hwaiting).1

/-- Settles O46: what the edge leaves of the line is what the fill leaves, and only SUCCESS fills. -/
theorem failedFetchFillsNothing : Obligations.FailedFetchFillsNothing := by
  intro r L ap rd hst hrd
  have hfill := lb_fill_of_not_success r rd hrd
  refine ⟨lb_up_of_failed_fetch r rd hst hrd, ?_, ?_, ?_, lb_next_of_unended_fetch r L ap rd hst⟩
  · rw [lb_next_valid, hfill]
  · rw [lb_next_laddr, hfill]
  · rw [lb_next_line, hfill]

theorem lb_toggle_of_effective (q : LBReg) (e : Bool) (he : e ≠ q.enabled) (hst : q.st ≠ .fetching) :
    q.toggle (some e) = { q with enabled := e, valid := false } := by
  simp [LBReg.toggle, he, hst]

theorem lb_toggle_of_ineffective (q : LBReg) (e : Bool) (h : e = q.enabled ∨ q.st = .fetching) :
    q.toggle (some e) = q := by
  obtain h | h := h <;> simp [LBReg.toggle, h]

/-- Settles O47: the request acts last, on the registers that the edge without it leaves. -/
theorem enableToggle : Obligations.EnableToggle := by
  intro r L ap rd e
  rw [lb_next_eq_toggle r L ap rd (some e), ← lb_next_enabled r L ap rd]
  generalize r.next L ap rd none = q
  refine ⟨lb_toggle_st q _, lb_toggle_line q _, lb_toggle_off q _, lb_toggle_rsize q _, fun he hst => ?_, fun h => ?_⟩
  · simp [lb_toggle_of_effective q e he hst]
  · simp [lb_toggle_of_ineffective q e h]

/-! Lines and their sub-ranges (R74, R294). -/

theorem alignDown_toNat (a : Addr) (L : Nat) : (alignDown a L).toNat = a.toNat - lineOffset a L := by
  have hlt : a.toNat - a.toNat % L < 2 ^ 32 := Nat.lt_of_le_of_lt (Nat.sub_le _ _) a.isLt
  rw [alignDown, BitVec.toNat_ofNat, Nat.mod_eq_of_lt hlt, lineOffset]

theorem alignDown_add_lineOffset (a : Addr) (L : Nat) : (alignDown a L).toNat + lineOffset a L = a.toNat := by
  rw [alignDown_toNat]
  exact Nat.sub_add_cancel (Nat.mod_le _ _)

theorem extracted_getD (line : List Byte) (off n i : Nat) (hi : i < n) :
    ((line.drop off).take n).getD i 0 = line.getD (off + i) 0 := by
  simp [List.getD_eq_getElem?_getD, hi]

theorem lineSize_of_eq (L : Nat) (hL : L = 2 ∨ L = 4 ∨ L = 8 ∨ L = 16) : LineSize true L := by
  simpa [LineSize] using hL

/-- Settles O43: a transfer's length divides that of the line, so an aligned one does not cross the end. -/
theorem subRangeStaysInLine : Obligations.SubRangeStaysInLine := by
  intro L x hL hle haligned
  have hbase := alignDown_add_lineOffset x.addr L
  have hfits : lineOffset x.addr L + sizeBytes x.size ≤ L :=
    of_decide_eq_true (fitsLine_of_aligned true L x (lineSize_of_eq L hL) haligned hle)
  refine ⟨hbase, hfits, fun line hline => ⟨_, rfl, ?_, fun i hi => ?_⟩⟩
  · rw [List.length_take, List.length_drop]
    omega
  · rw [extracted_getD _ _ _ _ hi]
    congr 1
    omega

/-! A miss and a PASS (R292, R296, R299). -/

/-- Settles O44. The line is left to a data phase that is no fetch: only the end of a fetch fills. -/
theorem missFetchesWholeLine : Obligations.MissFetchesWholeLine := by
  refine ⟨fun r L ap rd x hL hx hclass => ?_, fun r L ap rd x hx hw => ⟨lb_classify_eq_pass_iff r L ap rd hx hw, ?_⟩⟩
  · exact ⟨fetchXfer L x, lb_down_of_miss r L ap rd hx hclass, rfl, rfl, rfl,
      lineSizeCode_bytes true L (lineSize_of_eq L hL), rfl, rfl, rfl, rfl, alignDown_mod x.addr L⟩
  · refine fun hclass => ⟨lb_down_of_pass r L ap rd hclass, fun hready => ?_⟩
    have hnext := lb_next_of_pass r L ap rd hready hclass
    have hst : (r.next L ap rd none).st = .transparent := by rw [hnext]
    refine ⟨hnext, lb_fill_of_not_fetching r rd, fun ap' rd' => ?_⟩
    have hfill := lb_fill_of_not_fetching (r.next L ap rd none) rd' (by simp [hst])
    exact ⟨lb_up_of_transparent _ rd' hst, by rw [lb_next_valid, hfill], by rw [lb_next_laddr, hfill],
      by rw [lb_next_line, hfill]⟩

/-! A hit, on the line of a fetch that completes or on one already resident (R295, R302). -/

/-- While its slave waits, a fetch keeps the registers. -/
theorem lbRun_of_pending (L : Nat) (r : LBReg) (waits : List (AP × Resp)) (hst : r.st = .fetching)
    (hwaits : ∀ w ∈ waits, w.2.status = .pending) : lbRun L r waits = r := by
  induction waits with
  | nil => rfl
  | cons w ws ih =>
    obtain ⟨hw, hws⟩ := List.forall_mem_cons.1 hwaits
    rw [lbRun, lb_next_of_unended_fetch r L w.1 w.2 hst (.inl hw), ih hws]

/-- Idle cycles keep the registers but the data phase, and start no fetch. -/
theorem lbRun_of_idle (L : Nat) (r : LBReg) (between : List (AP × Resp)) (hst : r.st ≠ .fetching)
    (hidle : ∀ w ∈ between, isXfer w.1 = false ∧ hready w.2 = true) :
    ∃ st, st ≠ .fetching ∧ lbRun L r between = { r with st := st } := by
  induction between generalizing r with
  | nil => exact ⟨r.st, hst, rfl⟩
  | cons w ws ih =>
    obtain ⟨⟨hx, hrd⟩, hws⟩ := List.forall_mem_cons.1 hidle
    have hready : hready (r.up w.2) = true := by
      cases h : r.st with
      | idle => simp [LBReg.up, h, idleResp, Machine.hready, statusReady]
      | transparent => rwa [lb_up_of_transparent r w.2 h]
      | fetching => exact absurd h hst
      | localHit => rw [lb_up_of_localHit r w.2 h]; rfl
    have hnext := lb_next_of_no_transfer r L w.1 w.2 hready (by simpa [isXfer] using hx)
    rw [lb_fill_of_not_fetching r w.2 hst] at hnext
    rw [lbRun, hnext]
    exact ih { r with st := .idle } (by simp) hws

/-- What is asked of a hit is answered in its first cycle, whatever the slave does. -/
theorem lb_up_after_hit (r : LBReg) (L : Nat) (a : AP) (rd rd' : Resp) {x : Xfer} (hready : hready (r.up rd) = true)
    (hx : xferOf a = some x) (hclass : r.classify L a rd = .hit) :
    (r.next L a rd none).up rd' =
      { status := .success, data := extract (r.fill rd).line (lineOffset x.addr L) (sizeBytes x.size) } := by
  rw [lb_next_of_hit r L a rd hready hx hclass]
  rfl

/-- Settles O45: both claims are hits, the first on the line that the fetch fills, the second on one that idle cycles
keep. -/
theorem lineBufferIdempotence : Obligations.LineBufferIdempotence := by
  constructor
  · intro r L a1 a2 x y rd waits F hx hmiss hready hwaits _ hy hw hcacheable hline q done
    have hnext := lb_next_of_miss r L a1 rd hready hx hmiss
    have hq : q = r.next L a1 rd none := lbRun_of_pending L _ waits (by rw [hnext]) hwaits
    have hon : q.enabled = true := by rw [hq, lb_next_enabled, lb_enabled_of_miss r L a1 rd hmiss]
    rw [hnext] at hq
    have hfetching : q.st = .fetching := by rw [hq]
    have hup := lb_up_of_fetched q done hfetching rfl
    have hfill : q.fill done = { q with valid := true, laddr := alignDown x.addr L, line := F } := by
      rw [lb_fill_of_fetched q done hfetching rfl, hq]
      rfl
    have hclass := lb_classify_hit q L a2 done hy hw hcacheable hon (by rw [hfill]) (by rw [hfill, hline])
    have hdone : Machine.hready (q.up done) = true := by rw [hup]; rfl
    refine ⟨lb_down_of_miss r L a1 rd hx hmiss, ?_, lb_down_of_hit q L a2 done hclass, ?_, ?_, ?_, ?_⟩
    · rw [hup, hq]
      rfl
    · rw [lb_up_after_hit q L a2 done idleResp hdone hy hclass, hfill]
    · rw [lb_next_valid, hfill]
    · rw [lb_next_laddr, hfill]
    · rw [lb_next_line, hfill]
  · intro r L a y rd between hst hon hvalid hidle hy hw hcacheable hline q hready
    obtain ⟨st, hst', hq⟩ : ∃ st, st ≠ .fetching ∧ q = { r with st := st } := lbRun_of_idle L r between hst hidle
    have hfill : q.fill rd = q := lb_fill_of_not_fetching q rd (by rwa [hq])
    have hclass : q.classify L a rd = .hit :=
      lb_classify_hit q L a rd hy hw hcacheable (by rwa [hq]) (by rwa [hfill, hq]) (by rw [hfill, hq, hline])
    have hnext := lb_next_of_hit q L a rd hready hy hclass
    have hup := fun rd' => lb_up_after_hit q L a rd rd' hready hy hclass
    rw [hfill] at hnext hup
    obtain ⟨hqvalid, hqladdr, hqline⟩ : q.valid = true ∧ q.laddr = r.laddr ∧ q.line = r.line := by simp [hq, hvalid]
    rw [hqline] at hup
    exact ⟨hqvalid, hqladdr, hqline, lb_down_of_hit q L a rd hclass, hup, by rw [hnext], by rw [hnext, hqvalid],
      by rw [hnext, hqladdr], by rw [hnext, hqline]⟩

/-! A write at a line buffer (R293), and its stop (R399). -/

/-- Of the chain's adapters only its one line buffer can find a fatal write. -/
theorem adapterFatal_chain_of_sampled (q : SlaveRegs) (w16 : Bool) (w L : Nat) (e : Bool) (as : List Adapter)
    (v u : M2S) (r rd : Resp) (hvalid : validChain w16 w as = true)
    (hmem : (Adapter.lb L e, u, rd) ∈ chainPorts q as v r) (hsampled : q.lb.writeSampled L u.ap rd = true) :
    (chainPorts q as v r).findSome? (adapterFatal q) = some u.ap := by
  induction as generalizing v w with
  | nil => cases hmem
  | cons a as ih =>
    obtain hhead | htail := List.mem_cons.1 hmem
    · rw [chainPorts, ← hhead, List.findSome?_cons, adapterFatal, if_pos hsampled]
    · cases a with
      | lb K f =>
        obtain ⟨-, -, -, hnone⟩ := (validChain_lb w16 w K f as).1 hvalid
        have hsome := hasLineBuffer_of_mem L e as (mem_of_chainPorts q as _ r _ htail)
        exact absurd hsome (by simp [hnone])
      | wb => exact ih w _ ((validChain_wb w16 w as).1 hvalid).1 htail

theorem findSome?_range_first {α : Type} (f : Nat → Option α) (n k : Nat) (v : α) (hk : k < n)
    (hearlier : ∀ j < k, f j = none) (hf : f k = some v) : (List.range n).findSome? f = some v := by
  obtain ⟨d, rfl⟩ := Nat.exists_eq_add_of_le (show k + 1 ≤ n from hk)
  have hfirst : (List.range (k + 1)).findSome? f = some v :=
    findSome?_range_only f (k + 1) k v (by omega) (fun j hj hjk => hearlier j (by omega)) hf
  rw [List.range_add, List.findSome?_append, hfirst]
  rfl

/-- With no fault at an input stage, the first line buffer in SLAVES order with one names the stop (R399 (2)). -/
theorem stop_of_first_lineFault (c : Cycle) (n : Nat) (f : Fault) (hn : n < c.st.cfg.ns)
    (hstages : ∀ m < c.st.cfg.nm, c.stageFault m = none) (hearlier : ∀ k < n, c.lineFault k = none)
    (hf : c.lineFault n = some f) : c.stop = some f := by
  simp [Cycle.stop, Cycle.masterIds, Cycle.slaveIds, findSome?_range_none _ _ hstages,
    findSome?_range_first _ _ n f hn hearlier hf]

/-- Settles O42: a write is sampled exactly when the upstream link is ready, and it is passed down in either case. -/
theorem lineBufferWriteIsFatal : Obligations.LineBufferWriteIsFatal := by
  constructor
  · intro s inp n L en0 u rd x hvalid hn hmem hx hw hready hstages hearlier
    have hsampled : (s.slave n).lb.writeSampled L u.ap rd = true := by
      simp [LBReg.writeSampled, lb_classify_write _ L u.ap rd hx hw, hready]
    have hfatal := adapterFatal_chain_of_sampled (s.slave n) _ _ L en0 _ _ u _ rd
      (validChain_of_validCfg s.cfg n hvalid hn) hmem hsampled
    refine runCycle_of_stop s inp _ hvalid (stop_of_first_lineFault _ n _ hn hstages hearlier ?_)
    rw [Cycle.lineFault, Cycle.ports, hfatal]
    rfl
  · intro r L ap rd x hx hw hwaiting
    have hclass := lb_classify_write r L ap rd hx hw
    exact ⟨by simp [LBReg.writeSampled, hwaiting], lb_down_of_write r L ap rd hclass⟩

end Sys2Proof.Machine
end

section
/-! Settles O48, O49 and O50 (46_write_buffer.md). The invariant leaves a write buffer one content per state (R321), so
each statement is read off what that content drives (R324 to R326) and becomes at the edge (R328, R329). -/

namespace Sys2Proof.Machine

/-! The contents of a write buffer whose state is known. -/

section
variable (w : WBReg) (hinv : wbInvariant w = true)
include hinv

theorem wb_eq_rest (hst : w.st = .transparent) : w = .rest := by
  obtain rfl | ⟨a, -, rfl⟩ | ⟨a, d, held, -, -, rfl⟩ | ⟨h, -, rfl⟩ := (wbInvariant_iff w).1 hinv
  · rfl
  all_goals cases hst

theorem wb_eq_first (hst : w.st = .bufferedWriteFirst) : ∃ a, w = .first a := by
  obtain rfl | ⟨a, -, rfl⟩ | ⟨a, d, held, -, -, rfl⟩ | ⟨h, -, rfl⟩ := (wbInvariant_iff w).1 hinv
  case inr.inl => exact ⟨a, rfl⟩
  all_goals cases hst

theorem wb_eq_async (hst : w.st = .bufferedWriteAsync) :
    ∃ a d held, (∀ h, held = some h → isXfer h = true) ∧ w = .async a d held := by
  obtain rfl | ⟨a, -, rfl⟩ | ⟨a, d, held, -, hheld, rfl⟩ | ⟨h, -, rfl⟩ := (wbInvariant_iff w).1 hinv
  case inr.inr.inl => exact ⟨a, d, held, hheld, rfl⟩
  all_goals cases hst

end

/-! What is kept, and what counts as an answer. -/

theorem compatible_of_not_isXfer (a : AP) (h : isXfer a = false) : compatible a = false :=
  compatible_of_noWrite a (noWrite_of_no_transfer a (by simpa [isXfer] using h))

/-- The first transfer of a list is the head's if it is one (R328). -/
theorem find?_isXfer_cons (a : AP) (as : List AP) : (a :: as).find? isXfer = (keptAP a).or (as.find? isXfer) := by
  cases h : isXfer a <;> simp [keptAP, h]

/-- To hold what is offered unless something is held is to keep the candidate. -/
theorem or_keptAP (held : Option AP) (a : AP) (hheld : ∀ h, held = some h → isXfer h = true) :
    held.or (keptAP a) = keptAP (held.getD a) := by
  cases held with
  | none => rfl
  | some h => simp [keptAP, hheld h rfl]

theorem hready_iff_status (rd : Resp) : hready rd = true ↔ rd.status = .success ∨ rd.status = .error2 := by
  cases h : rd.status <;> simp [hready, statusReady, h]

theorem not_hready_iff_status (rd : Resp) : hready rd = false ↔ rd.status = .pending ∨ rd.status = .error1 := by
  cases h : rd.status <;> simp [hready, statusReady, h]

/-! What follows the end of a buffered write (R328). -/

theorem wb_drained_compatible (a : AP) (h : compatible a = true) : WBReg.drained a true = .first a := by
  simp [wb_drained_eq, h]

theorem wb_drained_waiting (a : AP) (p : Bool) (hx : isXfer a = true) (hc : p = false ∨ compatible a = false) :
    WBReg.drained a p = .injected a := by
  obtain rfl | hc := hc <;> simp [wb_drained_eq, *]

theorem wb_drained_idle (a : AP) (p : Bool) (hx : isXfer a = false) : WBReg.drained a p = .rest := by
  simp [wb_drained_eq, hx, compatible_of_not_isXfer a hx]

/-- Once drained, a write's data is gone, whatever follows it. -/
theorem wb_drained_drops_write (a : AP) (p : Bool) :
    (WBReg.drained a p).bdata = none ∧ (WBReg.drained a p).st ≠ .bufferedWriteAsync := by
  rw [wb_drained_eq]
  split
  · exact ⟨rfl, nofun⟩
  · split <;> exact ⟨rfl, nofun⟩

section
variable (a : AP) (d : BusValue) (held : Option AP) (u : M2S) (rd : Resp)

/-! The edges of a buffered write by its response (R328), and the address phase below it (R326). -/

theorem wb_first_next_success (hs : rd.status = .success) :
    (WBReg.first a).next u rd = if compatible u.ap then .first u.ap else .reset := by
  rw [wb_first_next, hs]; rfl

theorem wb_first_next_waiting (hs : rd.status = .pending ∨ rd.status = .error1) :
    (WBReg.first a).next u rd = .async a u.dp (keptAP u.ap) := by
  obtain hs | hs := hs <;> rw [wb_first_next, hs]

theorem wb_async_next_waiting (hs : rd.status = .pending ∨ rd.status = .error1) :
    (WBReg.async a d held).next u rd = .async a d (held.or (keptAP u.ap)) := by
  obtain hs | hs := hs <;> rw [wb_async_next, hs]

theorem wb_async_next_ready (hs : rd.status = .success ∨ rd.status = .error2) :
    (WBReg.async a d held).next u rd = WBReg.drained (held.getD u.ap) (decide (rd.status = .success)) := by
  obtain hs | hs := hs <;> rw [wb_async_next, hs] <;> rfl

theorem wb_async_candidate (b : AP) : (WBReg.async a d held).candidate b = held.getD b := by cases held <;> rfl

theorem wb_first_down_ctl :
    ((WBReg.first a).down u rd).ap.ctl =
      match rd.status with
      | .success => u.ap.ctl
      | .pending => if compatible u.ap then u.ap.ctl else .idle
      | .error1 => .idle
      | .error2 => .idle := rfl

theorem wb_async_down_ctl :
    ((WBReg.async a d held).down u rd).ap.ctl =
      match rd.status with
      | .success => if compatible (held.getD u.ap) then (held.getD u.ap).ctl else .idle
      | .pending => if compatible (held.getD u.ap) then (held.getD u.ap).ctl else .idle
      | .error1 => .idle
      | .error2 => .idle := by
  rw [← wb_async_candidate a d]
  cases hs : rd.status <;> simp [WBReg.down, WBReg.downCtl, WBReg.async, hs]

theorem wb_async_down_idle (hc : compatible (held.getD u.ap) = false) :
    ((WBReg.async a d held).down u rd).ap.ctl = .idle := by
  rw [wb_async_down_ctl]
  cases rd.status <;> simp [hc]

/-- A buffered write passes down nothing but its candidate (R326). -/
theorem wb_async_down_idle_or_candidate :
    ((WBReg.async a d held).down u rd).ap.ctl = .idle ∨
      ((WBReg.async a d held).down u rd).ap.ctl = (held.getD u.ap).ctl := by
  by_cases hc : compatible (held.getD u.ap) = true
  · rw [wb_async_down_ctl]
    cases rd.status <;> simp [hc]
  · exact .inl (wb_async_down_idle a d held u rd (by simpa using hc))

/-- After an injected idle's own response the waiting transfer is on its way and the write buffer is Transparent. -/
theorem wb_injected_next_idle (hc : compatible a = false) : (WBReg.injected a).next u idleResp = .rest := by
  rw [wb_injected_next, hc]; rfl

end

/-- While the slave waits, the write and its data stay, and the first transfer offered is held (R328). -/
theorem wbRun_async (a : AP) (d : BusValue) (held : Option AP) (waits : List (M2S × Resp))
    (hwaits : ∀ p ∈ waits, p.2.status = .pending) :
    wbRun (.async a d held) waits =
      .async a d (held.or (((waits.map Prod.fst).map M2S.ap).find? isXfer)) := by
  induction waits generalizing held with
  | nil => simp [wbRun]
  | cons p ps ih =>
    obtain ⟨hp, hps⟩ := List.forall_mem_cons.1 hwaits
    rw [wbRun, wb_async_next_waiting _ _ _ _ _ (.inl hp), ih _ hps, List.map_cons, List.map_cons, find?_isXfer_cons,
      Option.or_assoc]

/-- Settles O48: from Transparent to the slave's answer, by induction on the cycles it waits. -/
theorem writeBufferRoundTrip : Obligations.WriteBufferRoundTrip := by
  intro w u0 rd0 hst hinv hcomp hready
  obtain rfl := wb_eq_rest w hinv hst
  have hfirst : WBReg.rest.next u0 rd0 = .first u0.ap := by simp [wb_rest_next, hready, hcomp]
  rw [hfirst]
  refine ⟨rfl, rfl, fun _ => rfl, fun _ _ => rfl, fun u1 rd1 hs => ?_, fun u1 rd1 waits hs hwaits => ?_⟩
  · exact ⟨by rw [wb_first_down_ctl, hs], wb_first_next_success _ _ _ hs⟩
  · have hrun : wbRun (.first u0.ap) ((u1, rd1) :: waits) =
        .async u0.ap u1.dp (((u1 :: waits.map Prod.fst).map M2S.ap).find? isXfer) := by
      rw [wbRun, wb_first_next_waiting _ _ _ (.inl hs), wbRun_async _ _ _ _ hwaits, List.map_cons, find?_isXfer_cons]
    rw [hrun]
    refine ⟨rfl, by rw [wb_first_down_ctl, hs], fun _ _ => rfl, wb_async_down_idle_or_candidate _ _ _, ?_⟩
    intro u rd hend
    rw [wb_async_next_ready _ _ _ _ _ (.inl hend)]
    exact wb_drained_drops_write _ _

/-- Settles O49: in its first cycle by the slave's answer, after that by the answer and what the candidate is. -/
theorem laterTransfersWait : Obligations.LaterTransfersWait := by
  constructor
  · intro w u rd hinv hst
    obtain ⟨a, rfl⟩ := wb_eq_first w hinv hst
    refine ⟨fun hs => ?_, fun hs => ⟨wb_first_next_waiting a u rd hs, fun hblocked => ?_⟩⟩
    · rw [wb_first_next_success a u rd hs]
      exact ⟨by rw [wb_first_down_ctl, hs], fun hc => by rw [if_pos hc]; rfl, fun hc => by simp [hc]⟩
    · obtain hs | hs := hs
      · have hc : compatible u.ap = false := by simpa [hs] using hblocked
        simp [wb_first_down_ctl, hs, hc]
      · rw [wb_first_down_ctl, hs]
  · intro w u rd hinv hst
    obtain ⟨a, d, held, hheld, rfl⟩ := wb_eq_async w hinv hst
    rw [wb_async_candidate]
    refine ⟨fun hwait => ?_, fun hc hs => ?_, fun hx hready => ?_, fun hx hc => ⟨?_, fun hready => ?_⟩⟩
    · rw [wb_async_next_waiting _ _ _ _ _ ((not_hready_iff_status rd).1 hwait), or_keptAP held u.ap hheld]
      exact ⟨rfl, rfl, rfl, rfl⟩
    · rw [wb_async_down_ctl, hs, wb_async_next_ready _ _ _ _ _ (.inl hs), decide_eq_true hs,
        wb_drained_compatible _ hc]
      exact ⟨if_pos hc, rfl⟩
    · rw [wb_async_next_ready _ _ _ _ _ ((hready_iff_status rd).1 hready), wb_drained_idle _ _ hx]
      exact ⟨wb_async_down_idle a d held u rd (compatible_of_not_isXfer _ hx), rfl⟩
    · exact wb_async_down_idle a d held u rd hc
    · rw [wb_async_next_ready _ _ _ _ _ ((hready_iff_status rd).1 hready), wb_drained_waiting _ _ hx (.inr hc)]
      exact ⟨rfl, rfl, fun u' => ⟨rfl, rfl, by rw [wb_injected_next_idle _ u' hc]; rfl⟩⟩

/-- A write buffer answers upstream with an error only where it passes the slave's through (R329, R395). -/
theorem wb_up_no_error (w : WBReg) (rd : Resp) (hinv : wbInvariant w = true) (hst : w.st ≠ .transparent) :
    (w.up rd).status ≠ .error1 ∧ (w.up rd).status ≠ .error2 := by
  obtain rfl | ⟨a, -, rfl⟩ | ⟨a, d, held, -, -, rfl⟩ | ⟨h, -, rfl⟩ := (wbInvariant_iff w).1 hinv
  · exact absurd rfl hst
  · exact ⟨nofun, nofun⟩
  · cases held <;> exact ⟨nofun, nofun⟩
  · exact ⟨nofun, nofun⟩

/-- The first error cycle keeps a buffered write, whichever of its states it is in (R329). -/
theorem wb_next_error1 (w : WBReg) (u : M2S) (rd : Resp) (hinv : wbInvariant w = true)
    (hst : w.st = .bufferedWriteFirst ∨ w.st = .bufferedWriteAsync) (hs : rd.status = .error1) :
    ∃ a d held, w.next u rd = .async a d held := by
  obtain hst | hst := hst
  · obtain ⟨a, rfl⟩ := wb_eq_first w hinv hst
    exact ⟨_, _, _, wb_first_next_waiting a u rd (.inr hs)⟩
  · obtain ⟨a, d, held, -, rfl⟩ := wb_eq_async w hinv hst
    exact ⟨_, _, _, wb_async_next_waiting a d held u rd (.inr hs)⟩

/-- Settles O50: the first error cycle keeps the write, the second drains it as a write that was not passed on. -/
theorem bufferedWriteErrorIsLost : Obligations.BufferedWriteErrorIsLost := by
  intro w u u' rd rd' hinv
  refine ⟨wb_up_no_error w rd hinv, fun hst hs hs' => ?_⟩
  obtain ⟨a, d, held, hnext⟩ := wb_next_error1 w u rd hinv hst hs
  have hdrained : (WBReg.async a d held).next u' rd' = WBReg.drained (held.getD u'.ap) false := by
    rw [wb_async_next_ready _ _ _ _ _ (.inr hs'), hs']; rfl
  rw [hnext]
  dsimp only
  rw [hdrained, wb_async_candidate]
  cases hx : isXfer (held.getD u'.ap) with
  | false => rw [wb_drained_idle _ _ hx]; exact ⟨rfl, rfl, rfl, fun _ => ⟨rfl, rfl⟩, nofun⟩
  | true => rw [wb_drained_waiting _ _ hx (.inl rfl)]; exact ⟨rfl, rfl, rfl, nofun, fun _ => ⟨rfl, rfl⟩⟩

end Sys2Proof.Machine
end

section
/-! Settles O8, O10, O12 and O31: the registers a reset leaves (70_reset_and_hazards.md R431), the first cycle after it
(R432), the instruction of a step (47_interconnect.md R366) and the order of the fatal faults (60_exceptions.md R399). -/

namespace Sys2Proof.Machine

/-- Settles O12. -/
theorem stepRunsDecodedInstruction : Obligations.StepRunsDecodedInstruction := step_of_decode

/-- Settles O31: the first fault of an input stage is found before everything else, the first of a line buffer next. -/
theorem fatalBeforeViolation : Obligations.FatalBeforeViolation :=
  ⟨fun c m f hm hf hearlier => stop_of_stageFault c m f hm hearlier hf,
    fun c n f hn hf hstages hearlier => stop_of_first_lineFault c n f hn hstages hearlier hf⟩

/-! The registers of a slave's side at reset (R431). -/

theorem arbReset_owner_of_singleMaster (k : ArbKind) (m : Nat) (h : k = .singleMaster m) :
    (ArbReg.reset k).owner = some m := by
  rw [h]; rfl

/-- No arbiter but a SingleMaster has an owner at reset (R43). -/
theorem arbReset_owner_of_not_singleMaster (k : ArbKind) (h : ∀ m, k ≠ .singleMaster m) :
    (ArbReg.reset k).owner = none := by
  cases k with
  | singleMaster m => exact absurd rfl (h m)
  | rejecting => rfl
  | roundRobin => rfl
  | fixedPriority => rfl
  | combFixed => rfl
  | combFixedReversed => rfl

/-- The line buffer's register at reset is that of the chain's one line-buffer entry (R11, R45). -/
theorem chainLBReset_of_mem (w16 : Bool) (w L : Nat) (en0 : Bool) (as : List Adapter)
    (hvalid : validChain w16 w as = true) (hmem : .lb L en0 ∈ as) : chainLBReset as = .reset L en0 := by
  induction as with
  | nil => cases hmem
  | cons a as ih =>
    cases a with
    | lb K e =>
      obtain ⟨-, -, -, hone⟩ := (validChain_lb w16 w K e as).1 hvalid
      obtain hhead | htail := List.mem_cons.1 hmem
      · cases hhead; rfl
      · rw [hasLineBuffer_of_mem L en0 as htail] at hone; cases hone
    | wb => exact ih ((validChain_wb w16 w as).1 hvalid).1 (by simpa using hmem)

/-- Settles O8: each side at reset is the reset value of its entry in the configuration; only a line buffer's enable needs
R11, by which a chain has one line buffer at most. -/
theorem resetRegisterValues : Obligations.ResetRegisterValues := by
  intro c ins hvalid
  refine ⟨fun s hs => hs, fun m _ => ?_, fun n hn q hq => ?_⟩
  · rw [resetOf_master]
    exact ⟨rfl, rfl, rfl, rfl⟩
  · rw [resetOf_slave] at hq
    subst hq
    obtain ⟨hst, hline⟩ := chainLBReset_st (c.slave n).chain
    refine ⟨rfl, rfl, fun m => arbReset_owner_of_singleMaster _ m, arbReset_owner_of_not_singleMaster _, rfl, hst,
      hline, fun L en0 hmem => ?_, rfl, rfl, rfl, rfl⟩
    have hentry := chainLBReset_of_mem _ _ L en0 _ (validChain_of_validCfg c n hvalid hn) hmem
    exact congrArg LBReg.enabled hentry

/-! The first cycle after reset (R432). -/

section
variable (c : Cfg) (ins : List CycleInput) (inp : CycleInput)

theorem resp_of_reset (m : Nat) : ({ st := .resetOf c ins, inp := inp } : Cycle).resp m = idleResp := by
  rw [Cycle.resp, resetOf_master]; rfl

theorem committed_of_reset (m : Nat) : ({ st := .resetOf c ins, inp := inp } : Cycle).committed m = true := by
  rw [Cycle.committed, resetOf_master]; rfl

/-- A registered arbiter decides a cycle ahead, and before the first cycle it has decided for nobody (R204, R206). -/
theorem own_of_reset (n : Nat) (h : (c.slave n).arb = .roundRobin ∨ (c.slave n).arb = .fixedPriority) :
    ({ st := .resetOf c ins, inp := inp } : Cycle).own n = none := by
  rw [Cycle.own, resetOf_slave, resetOf_cfg]
  obtain h | h := h <;> simp [h, SlaveRegs.reset, ArbReg.reset, ArbReg.own]

end

/-- An output stage with no owner accepts nobody (R264). -/
theorem acc_of_own_none (c : Cycle) (n : Nat) (h : c.own n = none) : c.acc n = none := by
  simp [Cycle.acc, accepted, ownerTransfer, h]

/-- Settles O10. -/
theorem cycleZeroAfterReset : Obligations.CycleZeroAfterReset := by
  refine ⟨fun s hreset hvalid => ⟨_, resetDiscardsEverything s hreset |>.1 hvalid, rfl, rfl⟩, fun c ins inp =>
    ⟨fun m => ⟨resp_of_reset c ins inp m, committed_of_reset c ins inp m⟩, fun n _ harb => ?_⟩⟩
  have hown := own_of_reset c ins inp n harb
  exact ⟨hown, acc_of_own_none _ n hown⟩

end Sys2Proof.Machine
end

section
/-! Settles O29 (60_exceptions.md R391): along a chain of adapters no error arises, and one that its slave raised passes
every adapter whose data phase is open to the slave. -/

namespace Sys2Proof.Machine

/-- A response that is no error (R37). -/
def NoError (r : Resp) : Prop := r.status = .success ∨ r.status = .pending

/-! No adapter originates an error. -/

theorem noError_lb_up (r : LBReg) (rd : Resp) (h : NoError rd) : NoError (r.up rd) := by
  unfold LBReg.up
  cases r.st with
  | idle => exact .inl rfl
  | transparent => exact h
  | fetching => dsimp only; split; exacts [.inl rfl, h]
  | localHit => exact .inl rfl

theorem noError_wb_up (w : WBReg) (rd : Resp) (h : NoError rd) : NoError (w.up rd) := by
  unfold WBReg.up
  cases w.st with
  | transparent => exact h
  | idleInjectionDone => exact .inr rfl
  | bufferedWriteFirst => exact .inl rfl
  | bufferedWriteAsync => dsimp only; split; exacts [.inr rfl, .inl rfl]

theorem noError_chainUp (q : SlaveRegs) (as : List Adapter) (r : Resp) (h : NoError r) : NoError (chainUp q as r) := by
  induction as with
  | nil => exact h
  | cons a as ih =>
    cases a with
    | lb L e => exact noError_lb_up q.lb _ ih
    | wb => exact noError_wb_up q.wb _ ih

/-- Nor does an output stage: of the ports, the default slave alone does (R186, R268). -/
theorem noError_portResp_slave (c : Cycle) (m n : Nat) (h : NoError (c.slaveResp n)) :
    NoError (c.portResp m (.slave n)) := by
  by_cases howner : (c.st.slave n).downer = some m
  · rw [portResp_slave_of_owner c n m howner]
    exact noError_chainUp _ _ _ h
  · rw [portResp_slave_of_not_owner c n m howner]
    exact .inl rfl

/-- An input stage shows an error only of the port that has its data phase (R243). -/
theorem dpt_dflt_of_error (c : Cycle) (m : Nat) (hslaves : ∀ n, NoError (c.slaveResp n))
    (herror : ¬NoError (c.resp m)) : (c.st.master m).is.dpt = some .dflt := by
  unfold Cycle.resp ISReg.response at herror
  split at herror
  · exact absurd (.inr rfl) herror
  · split at herror
    next x hdpt =>
      cases x with
      | dflt => exact hdpt
      | slave n => exact absurd (noError_portResp_slave c m n (hslaves n)) herror
    next => exact absurd (.inl rfl) herror

/-! A slave's error on its way up. -/

/-- With its line buffer in a data phase at the slave and nothing buffered, a chain passes an error up unchanged (R298,
R325). -/
theorem chainUp_of_error (q : SlaveRegs) (as : List Adapter) (st : Status) (hst : st ≠ .success)
    (hlb : hasLineBuffer as = true → q.lb.st = .transparent ∨ q.lb.st = .fetching)
    (hwb : hasWriteBuffer as = true → q.wb.st = .transparent) :
    chainUp q as { status := st, data := .absent } = { status := st, data := .absent } := by
  induction as with
  | nil => rfl
  | cons a as ih =>
    cases a with
    | lb L e =>
      have hopen := hlb rfl
      rw [chainUp, ih (fun _ => hopen) hwb]
      obtain hopen | hopen := hopen
      · exact lb_up_of_transparent q.lb _ hopen
      · exact lb_up_of_failed_fetch q.lb _ hopen hst
    | wb =>
      have hopen := hwb rfl
      rw [chainUp, ih hlb fun _ => hopen]
      simp [adapterUp, WBReg.up, hopen]

/-- Settles O29. -/
theorem errorsOriginateAtSlaves : Obligations.ErrorsOriginateAtSlaves := by
  refine ⟨fun c m hslaves herror => dpt_dflt_of_error c m hslaves ?_, fun c m n st hst hresp hlb hwb his howner => ?_⟩
  · rintro (h | h) <;> simp [h] at herror
  · have herror : st ≠ .success := by
      obtain rfl | rfl := hst <;> decide
    calc c.resp m = c.portResp m (.slave n) := by rw [Cycle.resp, his]; rfl
      _ = c.stageResp n := portResp_slave_of_owner c n m howner
      _ = { status := st, data := .absent } := by
        rw [Cycle.stageResp, hresp]
        exact chainUp_of_error _ _ st herror hlb hwb

end Sys2Proof.Machine
end

section
/-! Settles O19 and O20 (60_exceptions.md R394, R399; 47_interconnect.md R362). While the agents obey R151 and R152 at the
ends of a chain, every link of the block carries what the data phase on it calls for: the responses going up by the
tables of R291 and R321, the write data going down by the same. So nothing raises a violation, and a cycle stops for a
fatal fault or not at all. -/

namespace Sys2Proof.Machine

/-! One link: what obeys R151 and R152 there raises nothing (R144, R145, R147). -/

theorem slaveObeys_iff (k : LinkMon) (r : Resp) :
    slaveObeys k r = true ↔
      (k.xfer = none → r = idleResp) ∧
        ∀ x, k.xfer = some x → k.err1 = decide (r.status = .error2) ∧ widthOf r.data = k.readWidth r.status := by
  unfold slaveObeys
  cases k.xfer <;> simp

theorem masterObeys_iff (k : LinkMon) (dp : BusValue) : masterObeys k dp = true ↔ widthOf dp = k.writeWidth := by
  simp [masterObeys]

/-- What is owed on a link is a matter of its data phase alone. -/
theorem slaveObeys_congr (u d : LinkMon) (r : Resp) (hx : u.xfer = d.xfer) (he : u.err1 = d.err1) :
    slaveObeys u r = slaveObeys d r := by
  unfold slaveObeys LinkMon.readWidth
  rw [hx, he]

theorem masterObeys_congr (u d : LinkMon) (dp : BusValue) (hx : u.xfer = d.xfer) :
    masterObeys u dp = masterObeys d dp := by
  unfold masterObeys LinkMon.writeWidth
  rw [hx]

theorem readWidth_of_read (k : LinkMon) (x : Xfer) (hx : k.xfer = some x) (hw : x.write = false) :
    k.readWidth .success = some (sizeBytes x.size) := by
  simp [LinkMon.readWidth, hx, hw]

theorem readWidth_of_write (k : LinkMon) (x : Xfer) (hx : k.xfer = some x) (hw : x.write = true) (st : Status) :
    k.readWidth st = none := by
  simp [LinkMon.readWidth, hx, hw]

theorem writeWidth_of_idle (k : LinkMon) (hx : k.xfer = none) : k.writeWidth = none := by
  simp [LinkMon.writeWidth, hx]

theorem writeWidth_of_read (k : LinkMon) (x : Xfer) (hx : k.xfer = some x) (hw : x.write = false) :
    k.writeWidth = none := by
  simp [LinkMon.writeWidth, hx, hw]

/-- The monitor of a link raises nothing. -/
def LinkSilent (w16 : Bool) (k : LinkMon) (w : Wire) : Prop :=
  LinkMon.widthMismatch w16 k w = false ∧ LinkMon.errorSequence k w = false

theorem linkSilent_of_obeys (w16 : Bool) (k : LinkMon) (w : Wire) (hsize : phaseSizeExists w16 k = true)
    (hidle : k.xfer = none → k.err1 = false) (hslave : slaveObeys k w.resp = true)
    (hmaster : masterObeys k w.dp = true) : LinkSilent w16 k w := by
  rw [slaveObeys_iff] at hslave
  rw [masterObeys_iff] at hmaster
  obtain ⟨hrest, hphase⟩ := hslave
  cases hx : k.xfer with
  | none =>
    have hdp : w.dp = .absent := by
      rw [writeWidth_of_idle k hx] at hmaster
      cases h : w.dp with
      | absent => rfl
      | bytes b => simp [h, widthOf] at hmaster
    simp [LinkSilent, widthMismatch_false_iff, LinkMon.errorSequence, LinkMon.writeWidth, LinkMon.readWidth, hdp,
      hrest hx, idleResp, widthOf, hx, hidle hx]
  | some x =>
    have hexists := (phaseSizeExists_iff w16 k).1 hsize x hx
    obtain ⟨herror, hread⟩ := hphase x hx
    refine ⟨(widthMismatch_false_iff w16 k w).2 ⟨hmaster, hread, carrierExists_of_widthOf w16 x.size _ hexists ?_,
      carrierExists_of_widthOf w16 x.size _ hexists ?_⟩, by simp [LinkMon.errorSequence, herror]⟩
    · intro n hn
      rw [hmaster, LinkMon.writeWidth, hx] at hn
      grind
    · intro n hn
      rw [hread, LinkMon.readWidth, hx] at hn
      grind

/-! The line buffer (the table of R291). -/

theorem widthOf_extract (line : List Byte) (off n : Nat) (h : off + n ≤ line.length) :
    widthOf (extract line off n) = some n := by
  simp only [extract, widthOf, List.length_take, List.length_drop, Option.some.injEq]
  omega

theorem length_carriedBytes (v : BusValue) (n : Nat) (h : widthOf v = some n) : (carriedBytes v).length = n := by
  cases v with
  | absent => cases h
  | bytes b => exact Option.some.inj h

/-- The table of R291, a state at a time. -/
theorem lbLinks_cases (L : Nat) (r : LBReg) (u d : LinkMon) (h : lbLinks L r u d = true) :
    (r.st = .idle ∧ u.xfer = none ∧ d.xfer = none ∧ u.err1 = false ∧ d.err1 = false) ∨
      ∃ x, u.xfer = some x ∧ x.write = false ∧
        ((r.st = .transparent ∧ d.xfer = some x ∧ u.err1 = d.err1) ∨
          (r.st = .fetching ∧ x.size = r.rsize ∧ u.err1 = d.err1 ∧
            ∃ y, d.xfer = some y ∧ y.write = false ∧ y.size = lineSizeCode L) ∨
          (r.st = .localHit ∧ x.size = r.rsize ∧ d.xfer = none ∧ u.err1 = false ∧ d.err1 = false)) := by
  unfold lbLinks at h
  split at h <;> grind

section
variable (w16 : Bool) (L : Nat) (r : LBReg) (u d : LinkMon) (rd : Resp) (hlinks : lbLinks L r u d = true)
  (hd : slaveObeys d rd = true)
include hlinks

/-- Below a line buffer there is never a write's data phase, so its absent write data is what is owed (R299). -/
theorem lb_masterObeys_down : masterObeys d .absent = true := by
  rw [masterObeys_iff]
  obtain ⟨-, -, hidle, -⟩ | ⟨x, -, hread, ⟨-, hx, -⟩ | ⟨-, -, -, y, hy, hread, -⟩ | ⟨-, -, hidle, -⟩⟩ :=
    lbLinks_cases L r u d hlinks
  · exact (writeWidth_of_idle d hidle).symm
  · exact (writeWidth_of_read d x hx hread).symm
  · exact (writeWidth_of_read d y hy hread).symm
  · exact (writeWidth_of_idle d hidle).symm

include hd

theorem lb_idleResponse_silent : r.idleResponse rd = false := by
  rw [slaveObeys_iff] at hd
  obtain ⟨hst, -, hidle, -⟩ | ⟨x, -, -, ⟨hst, -⟩ | ⟨hst, -⟩ | ⟨hst, -, hidle, -⟩⟩ := lbLinks_cases L r u d hlinks
  · simp [LBReg.idleResponse, hst, hd.1 hidle]
  · simp [LBReg.idleResponse, hst]
  · simp [LBReg.idleResponse, hst]
  · simp [LBReg.idleResponse, hst, hd.1 hidle]

variable (hL : LineSize w16 L)
include hL

/-- The data that ends a fetch is a line (R296). -/
theorem lb_widthOf_fetched (hst : r.st = .fetching) (hrd : rd.status = .success) : widthOf rd.data = some L := by
  obtain ⟨hst', -⟩ | ⟨x, -, -, ⟨hst', -⟩ | ⟨-, -, -, y, hy, hread, hsize⟩ | ⟨hst', -⟩⟩ := lbLinks_cases L r u d hlinks
  case inr.inr.inl =>
    obtain ⟨-, hwidth⟩ := ((slaveObeys_iff d rd).1 hd).2 y hy
    rw [hwidth, hrd, readWidth_of_read d y hy hread, hsize, lineSizeCode_bytes w16 L hL]
  all_goals rw [hst] at hst'; cases hst'

theorem lb_widthMismatch_silent : r.widthMismatch L rd = false := by
  by_cases hst : r.st = .fetching
  · by_cases hrd : rd.status = .success
    · simp [LBReg.widthMismatch, lb_widthOf_fetched w16 L r u d rd hlinks hd hL hst hrd]
    · simp [LBReg.widthMismatch, hrd]
  · simp [LBReg.widthMismatch, hst]

/-- A line buffer answers its upstream data phase as R151 asks: with the slave's own response, or with the bytes asked for
of the line fetched or resident (R297, R298). -/
theorem lb_slaveObeys_up (hinv : lbInvariant L r = true) : slaveObeys u (r.up rd) = true := by
  obtain ⟨-, hfetching, hlocal⟩ := (lbInvariant_iff L r).1 hinv
  obtain ⟨hst, hu, -⟩ | ⟨x, hu, hread, ⟨hst, hx, herr⟩ | ⟨hst, hsize, herr, y, hy, -⟩ | ⟨hst, hsize, -, herr, -⟩⟩ :=
    lbLinks_cases L r u d hlinks
  · simp [slaveObeys, hu, LBReg.up, hst]
  · rw [lb_up_of_transparent r rd hst, slaveObeys_congr u d rd (hu.trans hx.symm) herr]
    exact hd
  · obtain ⟨-, hinside⟩ := hfetching hst
    obtain ⟨hsequence, -⟩ := ((slaveObeys_iff d rd).1 hd).2 y hy
    by_cases hrd : rd.status = .success
    · have hline := length_carriedBytes _ _ (lb_widthOf_fetched w16 L r u d rd hlinks hd hL hst hrd)
      rw [lb_up_of_fetched r rd hst hrd]
      simp [slaveObeys, hu, herr, hsequence, hrd, readWidth_of_read u x hu hread, hsize,
        widthOf_extract _ _ _ (hline ▸ hinside)]
    · rw [lb_up_of_failed_fetch r rd hst hrd]
      simp [slaveObeys, hu, herr, hsequence, widthOf, readWidth_of_not_success u _ hrd]
  · obtain ⟨hline, hinside⟩ := hlocal hst
    rw [lb_up_of_localHit r rd hst]
    simp [slaveObeys, hu, herr, readWidth_of_read u x hu hread, hsize, widthOf_extract _ _ _ (hline ▸ hinside)]

end

/-! The write buffer (the table of R321). -/

/-- A bufferable write is a write (R322). -/
theorem xferOf_of_compatible (a : AP) (h : compatible a = true) : ∃ x, xferOf a = some x ∧ x.write = true := by
  unfold compatible at h
  cases hx : xferOf a with
  | none => simp [hx] at h
  | some x => exact ⟨x, rfl, by simp_all⟩

/-- A wait state with no data is owed in any data phase whose last response was no ERROR1 (R145, R147). -/
theorem slaveObeys_pending (k : LinkMon) (x : Xfer) (hx : k.xfer = some x) (herr : k.err1 = false) :
    slaveObeys k { status := .pending, data := .absent } = true := by
  simp [slaveObeys, hx, herr, widthOf, readWidth_of_not_success]

/-- The idle response ends a write, whose last response was no ERROR1 (R145, R147). -/
theorem slaveObeys_write_ended (k : LinkMon) (x : Xfer) (hx : k.xfer = some x) (hw : x.write = true)
    (herr : k.err1 = false) : slaveObeys k idleResp = true := by
  simp [slaveObeys, hx, herr, idleResp, widthOf, readWidth_of_write k x hx hw]

section
variable (w : WBReg) (u d : LinkMon) (rd : Resp) (hinv : wbInvariant w = true) (hlinks : wbLinks w u d = true)
  (hd : slaveObeys d rd = true)
include hinv hlinks

/-- What a write buffer drives below as write data is what is owed there: the live data, or the data it kept (R326). -/
theorem wb_masterObeys_down (dp : BusValue) (hu : masterObeys u dp = true) : masterObeys d (w.downData dp) = true := by
  obtain rfl | ⟨a, -, rfl⟩ | ⟨a, v, held, ha, -, rfl⟩ | ⟨h, -, rfl⟩ := (wbInvariant_iff w).1 hinv
  · obtain ⟨hsame, -⟩ := (wbLinks_rest u d).1 hlinks
    rw [← masterObeys_congr u d _ hsame]
    exact hu
  · obtain ⟨hxu, hxd, -⟩ := (wbLinks_first u d a).1 hlinks
    rw [← masterObeys_congr u d _ (hxu.trans hxd.symm)]
    exact hu
  · obtain ⟨-, hxd, -, hwidth⟩ := (wbLinks_async u d a v held).1 hlinks
    obtain ⟨x, hx, hwrite⟩ := xferOf_of_compatible a ha
    have hkept : (WBReg.async a v held).downData dp = v := rfl
    rw [masterObeys_iff, hkept, hwidth]
    simp [apBytes, LinkMon.writeWidth, hxd, hx, hwrite]
  · obtain ⟨-, hxd, -⟩ := (wbLinks_injected u d h).1 hlinks
    exact (masterObeys_iff d _).2 (writeWidth_of_idle d hxd).symm

theorem wb_widthMismatch_silent (dp : BusValue) (hu : masterObeys u dp = true) : w.widthMismatch dp = false := by
  obtain rfl | ⟨a, ha, rfl⟩ | ⟨a, v, held, -, -, rfl⟩ | ⟨h, -, rfl⟩ := (wbInvariant_iff w).1 hinv
  case inr.inl =>
    obtain ⟨hxu, -⟩ := (wbLinks_first u d a).1 hlinks
    obtain ⟨x, hx, hwrite⟩ := xferOf_of_compatible a ha
    rw [masterObeys_iff] at hu
    simp [WBReg.widthMismatch, WBReg.first, hu, apBytes, LinkMon.writeWidth, hxu, hx, hwrite]
  all_goals rfl

include hd

theorem wb_idleResponse_silent : w.idleResponse rd = false := by
  obtain rfl | ⟨a, -, rfl⟩ | ⟨a, v, held, -, -, rfl⟩ | ⟨h, -, rfl⟩ := (wbInvariant_iff w).1 hinv
  case inr.inr.inr =>
    obtain ⟨-, hxd, -⟩ := (wbLinks_injected u d h).1 hlinks
    simp [WBReg.idleResponse, slaveObeys_idle d rd hd hxd]
  all_goals rfl

theorem wb_errorSequence_silent : w.errorSequence rd = false := by
  obtain rfl | ⟨a, ha, rfl⟩ | ⟨a, v, held, -, -, rfl⟩ | ⟨h, -, rfl⟩ := (wbInvariant_iff w).1 hinv
  case inr.inl =>
    obtain ⟨-, hxd, -, herr⟩ := (wbLinks_first u d a).1 hlinks
    obtain ⟨x, hx, -⟩ := xferOf_of_compatible a ha
    obtain ⟨hsequence, -⟩ := ((slaveObeys_iff d rd).1 hd).2 x (hxd.trans hx)
    simpa [WBReg.errorSequence, WBReg.first, herr] using hsequence
  all_goals rfl

/-- A write buffer answers its upstream data phase as R151 asks (R324, R325). -/
theorem wb_slaveObeys_up : slaveObeys u (w.up rd) = true := by
  obtain rfl | ⟨a, ha, rfl⟩ | ⟨a, v, held, -, hheld, rfl⟩ | ⟨h, hh, rfl⟩ := (wbInvariant_iff w).1 hinv
  · obtain ⟨hsame, herr⟩ := (wbLinks_rest u d).1 hlinks
    rw [wb_rest_up, slaveObeys_congr u d rd hsame herr]
    exact hd
  · obtain ⟨hxu, -, herr, -⟩ := (wbLinks_first u d a).1 hlinks
    obtain ⟨x, hx, hwrite⟩ := xferOf_of_compatible a ha
    exact slaveObeys_write_ended u x (hxu.trans hx) hwrite herr
  · obtain ⟨hxu, -, herr, -⟩ := (wbLinks_async u d a v held).1 hlinks
    cases held with
    | none => simp [slaveObeys, hxu, optXfer, wb_async_up]
    | some h =>
      obtain ⟨x, hx⟩ := Option.isSome_iff_exists.1 (hheld h rfl)
      exact slaveObeys_pending u x (hxu.trans hx) herr
  · obtain ⟨hxu, -, herr, -⟩ := (wbLinks_injected u d h).1 hlinks
    obtain ⟨x, hx⟩ := Option.isSome_iff_exists.1 hh
    exact slaveObeys_pending u x (hxu.trans hx) herr

end

end Sys2Proof.Machine
end

section
/-! The chains and the masters' links of a block whose agents obey, and the stop of its cycles; settles O19 and O20. -/

namespace Sys2Proof.Machine

/-! One adapter, of either kind. -/

/-- What the adapters of a chain keep in their registers (R45, R46, R74), the lines being of a size of R10. -/
structure AdaptersSound (w16 : Bool) (q : SlaveRegs) (as : List Adapter) : Prop where
  wb : wbInvariant q.wb = true
  lb : ∀ L e, .lb L e ∈ as → LineSize w16 L ∧ lbInvariant L q.lb = true

theorem AdaptersSound.tail {w16 : Bool} {q : SlaveRegs} {a : Adapter} {as : List Adapter}
    (h : AdaptersSound w16 q (a :: as)) : AdaptersSound w16 q as :=
  ⟨h.wb, fun L e hmem => h.lb L e (List.mem_cons_of_mem a hmem)⟩

/-- An adapter in a port of the chain raises no violation. -/
structure PortLawful (q : SlaveRegs) (p : Adapter × M2S × Resp) : Prop where
  idleResponse : adapterIdleResponse q p = false
  widthMismatch : adapterWidthMismatch q p = false
  errorSequence : adapterErrorSequence q p = false

section
variable (w16 : Bool) (q : SlaveRegs) (a : Adapter) (as : List Adapter) (u d : LinkMon) (rd : Resp) (b : M2S)
  (hlinks : adapterLinks q a u d = true) (hsound : AdaptersSound w16 q (a :: as))
include hlinks

/-- A link above an adapter remembers ERROR1 only of a transfer. -/
theorem err1_above_adapter (hidle : u.xfer = none) : u.err1 = false := by
  cases a with
  | lb L e =>
    obtain ⟨-, -, -, herr, -⟩ | ⟨x, hx, -⟩ := lbLinks_cases L q.lb u d hlinks
    · exact herr
    · rw [hidle] at hx; cases hx
  | wb =>
    obtain ⟨hlinks, hrest⟩ := (Bool.and_eq_true_iff ..).1 hlinks
    cases hst : q.wb.st with
    | transparent => simpa [hst, hidle] using hrest
    | bufferedWriteFirst => obtain ⟨-, -, herr, -⟩ := (wbLinks_of_first u d q.wb hst).1 hlinks; exact herr
    | bufferedWriteAsync => obtain ⟨-, -, herr, -⟩ := (wbLinks_of_async u d q.wb hst).1 hlinks; exact herr
    | idleInjectionDone => obtain ⟨-, -, herr, -⟩ := (wbLinks_of_injected u d q.wb hst).1 hlinks; exact herr

include hsound

theorem adapter_masterObeys_down (hu : masterObeys u b.dp = true) :
    masterObeys d (adapterDown q a b rd).dp = true := by
  cases a with
  | lb L e => exact lb_masterObeys_down L q.lb u d hlinks
  | wb =>
    obtain ⟨hlinks, -⟩ := (Bool.and_eq_true_iff ..).1 hlinks
    exact wb_masterObeys_down q.wb u d hsound.wb hlinks b.dp hu

variable (hd : slaveObeys d rd = true)
include hd

theorem adapter_slaveObeys_up : slaveObeys u (adapterUp q a rd) = true := by
  cases a with
  | lb L e =>
    obtain ⟨hL, hline⟩ := hsound.lb L e List.mem_cons_self
    exact lb_slaveObeys_up w16 L q.lb u d rd hlinks hd hL hline
  | wb =>
    obtain ⟨hlinks, -⟩ := (Bool.and_eq_true_iff ..).1 hlinks
    exact wb_slaveObeys_up q.wb u d rd hsound.wb hlinks hd

theorem adapter_lawful (hu : masterObeys u b.dp = true) : PortLawful q (a, b, rd) := by
  cases a with
  | lb L e =>
    obtain ⟨hL, -⟩ := hsound.lb L e List.mem_cons_self
    exact ⟨lb_idleResponse_silent L q.lb u d rd hlinks hd, lb_widthMismatch_silent w16 L q.lb u d rd hlinks hd hL, rfl⟩
  | wb =>
    obtain ⟨hlinks, -⟩ := (Bool.and_eq_true_iff ..).1 hlinks
    exact ⟨wb_idleResponse_silent q.wb u d rd hsound.wb hlinks hd,
      wb_widthMismatch_silent q.wb u d hsound.wb hlinks b.dp hu,
      wb_errorSequence_silent q.wb u d rd hsound.wb hlinks hd⟩

end

theorem adaptersSound_of_invariant (s : State) (hvalid : validCfg s.cfg = true) (hadapter : AdapterInvariant s) (n : Nat)
    (hn : n < s.cfg.ns) : AdaptersSound s.cfg.w16 (s.slave n) (s.cfg.slave n).chain := by
  obtain ⟨hwb, hlb⟩ := hadapter n hn
  refine ⟨hwb, fun L e hmem => ⟨?_, ((chainLBInvariant_iff _ _).1 hlb L e hmem).1⟩⟩
  exact (validChain_mem _ _ L e _ (validChain_of_validCfg _ n hvalid hn) hmem).1

/-! A chain, its slave and its output stage obeying at its two ends. -/

section
variable (s : State) (n : Nat) (r : Resp) (as : List Adapter) (j : Nat)
  (hlinks : chainLinks s n as j = true) (hsound : AdaptersSound s.cfg.w16 (s.slave n) as)
  (hslave : slaveObeys (s.slaveMonitor n (j + as.length)) r = true)
include hlinks

theorem err1_of_idle_link (hidle : (s.slaveMonitor n j).xfer = none) : (s.slaveMonitor n j).err1 = false := by
  cases as with
  | nil =>
    obtain ⟨-, herr⟩ := (Bool.and_eq_true_iff ..).1 hlinks
    simpa [hidle] using herr
  | cons a as =>
    obtain ⟨-, hadapter, -⟩ := (chainLinks_cons s n a as j).1 hlinks
    exact err1_above_adapter (s.slave n) a _ _ hadapter hidle

theorem phaseSizeExists_of_chainLinks : phaseSizeExists s.cfg.w16 (s.slaveMonitor n j) = true := by
  cases as with
  | nil => exact ((Bool.and_eq_true_iff ..).1 hlinks).1
  | cons a as => exact ((chainLinks_cons s n a as j).1 hlinks).1

include hsound hslave

/-- The responses on the way up (R362 step R2): each link is answered as R151 asks. -/
theorem chainUp_obeys : slaveObeys (s.slaveMonitor n j) (chainUp (s.slave n) as r) = true := by
  induction as generalizing j with
  | nil => exact hslave
  | cons a as ih =>
    obtain ⟨-, hadapter, hbelow⟩ := (chainLinks_cons s n a as j).1 hlinks
    rw [List.length_cons, Nat.add_comm as.length, ← Nat.add_assoc] at hslave
    exact adapter_slaveObeys_up s.cfg.w16 _ a as _ _ _ hadapter hsound (ih (j + 1) hbelow hsound.tail hslave)

/-- The link on top of a chain raises nothing while its write data is what is owed. -/
theorem topLink_silent (u : M2S) (hu : masterObeys (s.slaveMonitor n j) u.dp = true) :
    LinkSilent s.cfg.w16 (s.slaveMonitor n j)
      { ap := u.ap, dp := u.dp, resp := chainUp (s.slave n) as r } :=
  linkSilent_of_obeys _ _ _ (phaseSizeExists_of_chainLinks s n as j hlinks)
    (err1_of_idle_link s n as j hlinks) (chainUp_obeys s n r as j hlinks hsound hslave) hu

/-- The requests on the way down (R362 step Q5): no adapter and no monitor of the chain raises a violation. -/
theorem chain_silent (u : M2S) (hu : masterObeys (s.slaveMonitor n j) u.dp = true) :
    (∀ p ∈ chainPorts (s.slave n) as u r, PortLawful (s.slave n) p) ∧
      ∀ i w, (chainWires (s.slave n) as u r)[i]? = some w →
        LinkSilent s.cfg.w16 (s.slaveMonitor n (j + i)) w := by
  have htop := topLink_silent s n r as j hlinks hsound hslave u hu
  induction as generalizing j u with
  | nil =>
    refine ⟨fun p hp => absurd hp List.not_mem_nil, fun i w hw => ?_⟩
    rw [chainWires, List.getElem?_singleton] at hw
    split at hw
    next hi => cases hw; rw [hi]; exact htop
    next => cases hw
  | cons a as ih =>
    obtain ⟨-, hadapter, hbelow⟩ := (chainLinks_cons s n a as j).1 hlinks
    have hlast : slaveObeys (s.slaveMonitor n (j + 1 + as.length)) r = true := by
      rwa [List.length_cons, Nat.add_comm as.length, ← Nat.add_assoc] at hslave
    have hd := chainUp_obeys s n r as (j + 1) hbelow hsound.tail hlast
    have hdown := adapter_masterObeys_down s.cfg.w16 _ a as _ _ (chainUp (s.slave n) as r) u hadapter hsound hu
    obtain ⟨hports, hwires⟩ := ih (j + 1) hbelow hsound.tail hlast _ hdown
      (topLink_silent s n r as (j + 1) hbelow hsound.tail hlast _ hdown)
    refine ⟨?_, fun i w hw => ?_⟩
    · simp only [chainPorts, List.mem_cons, forall_eq_or_imp]
      exact ⟨adapter_lawful s.cfg.w16 _ a as _ _ _ u hadapter hsound hd hu, hports⟩
    · cases i with
      | zero => cases hw; exact htop
      | succ i => rw [Nat.add_comm i, ← Nat.add_assoc]; exact hwires i w hw

end

/-- The monitors below an output stage raise nothing if each raises nothing on its own link. -/
theorem chainMonViolation_none_of_wires (c : Cycle) (v : ViolationName) (bad : LinkMon → Wire → Bool) (n : Nat)
    (h : ∀ i w, (c.wires n)[i]? = some w → bad (c.st.slaveMonitor n i) w = false) :
    c.chainMonViolation v bad n = none :=
  List.findSome?_eq_none_iff.2 fun wj hwj =>
    (violationIf_none _ _ _ _).2 (h wj.2 wj.1 (List.mem_zipIdx_iff_getElem?.1 hwj))

/-! The cycle of a block with the invariant whose agents obey. -/

section
variable (c : Cycle) (hvalid : validCfg c.st.cfg = true) (hinv : Sys2Proof.Machine.Invariant c.st)
  (hobey : AgentsObey c)
include hinv hobey

/-- The write data of a data phase is its master's, whose link says what is owed on the slave's (R244, R267). -/
theorem stageData_obeys (n : Nat) (hn : n < c.st.cfg.ns) :
    masterObeys (c.st.slaveMonitor n 0) (c.stageData n) = true := by
  obtain ⟨⟨-, hmasters, howners⟩, -, hmasterLinks, hslaveLinks⟩ := hinv
  obtain ⟨-, hnone⟩ := hslaveLinks n hn
  cases howner : (c.st.slave n).downer with
  | none =>
    rw [stageData_of_no_downer c n howner]
    exact (masterObeys_iff _ _).2 (writeWidth_of_idle _ (hnone howner).1).symm
  | some m =>
    have hm := howners n hn m howner
    obtain ⟨hexcl, -, -, -, -, hroute⟩ := hmasters m hm
    have hdpt := (hroute n hn).2 howner
    have hheld : (c.st.master m).is.held = none := by
      by_contra hheld
      rw [hexcl hheld] at hdpt
      cases hdpt
    obtain ⟨-, -, hphase⟩ := (masterLink_iff c.st m).1 (hmasterLinks m hm)
    obtain ⟨hslave, -⟩ := hphase hheld
    obtain ⟨-, hsame, -⟩ := hslave n hdpt
    rw [stageData_of_downer c n m howner hdpt, ← masterObeys_congr _ _ _ hsame]
    exact hobey.1 m hm

include hvalid

theorem stageResp_obeys (n : Nat) (hn : n < c.st.cfg.ns) :
    slaveObeys (c.st.slaveMonitor n 0) (c.stageResp n) = true := by
  obtain ⟨-, hadapter, -, hchains⟩ := hinv
  exact chainUp_obeys c.st n _ _ 0 (hchains n hn).1 (adaptersSound_of_invariant c.st hvalid hadapter n hn)
    (by simpa using hobey.2 n hn)

/-- The chain below an output stage raises no violation. -/
theorem chain_lawful (n : Nat) (hn : n < c.st.cfg.ns) :
    (∀ p ∈ c.ports n, PortLawful (c.st.slave n) p) ∧
      ∀ i w, (c.wires n)[i]? = some w → LinkSilent c.st.cfg.w16 (c.st.slaveMonitor n i) w := by
  have hdata := stageData_obeys c hinv hobey n hn
  obtain ⟨-, hadapter, -, hchains⟩ := hinv
  have hchain := chain_silent c.st n (c.slaveResp n) _ 0 (hchains n hn).1
    (adaptersSound_of_invariant c.st hvalid hadapter n hn) (by simpa using hobey.2 n hn)
    { ap := c.stageAP n, dp := c.stageData n } hdata
  simp only [Nat.zero_add] at hchain
  exact hchain

theorem strayResponse_none_of_obeys (n : Nat) (hn : n < c.st.cfg.ns) : c.strayResponse n = none := by
  have hresp := stageResp_obeys c hvalid hinv hobey n hn
  obtain ⟨-, -, -, hchains⟩ := hinv
  refine (violationIf_none _ _ _ _).2 ?_
  cases howner : (c.st.slave n).downer with
  | none =>
    obtain ⟨hidle, -⟩ := (hchains n hn).2 howner
    simp [Machine.strayResponse, slaveObeys_idle _ _ hresp hidle]
  | some m => simp [Machine.strayResponse]

/-- An input stage answers its master's data phase as R151 asks: with a wait state while the transfer is held, and else
with the response of the port that has the data phase (R243). -/
theorem resp_obeys (m : Nat) (hm : m < c.st.cfg.nm) :
    slaveObeys (c.st.masterMonitor m) (c.resp m) = true := by
  have hstage := stageResp_obeys c hvalid hinv hobey
  obtain ⟨⟨-, hmasters, -⟩, -, hmasterLinks, -⟩ := hinv
  obtain ⟨-, hpasses, hknown, hdefault, hddowner, howner⟩ := hmasters m hm
  obtain ⟨-, hhold, hphase⟩ := (masterLink_iff c.st m).1 (hmasterLinks m hm)
  cases hheld : (c.st.master m).is.held with
  | some h =>
    obtain ⟨hxfer, herr⟩ := hhold h hheld
    have hresp : c.resp m = { status := .pending, data := .absent } := by
      simp [Cycle.resp, ISReg.response, hheld]
    cases hx : xferOf h with
    | none => simp [heldPasses, hheld, hx] at hpasses
    | some x => rw [hresp]; exact slaveObeys_pending _ x (hxfer.trans hx) herr
  | none =>
    obtain ⟨hslave, hdflt, hidle⟩ := hphase hheld
    cases hdpt : (c.st.master m).is.dpt with
    | none =>
      have hresp : c.resp m = idleResp := by simp [Cycle.resp, ISReg.response, hheld, hdpt]
      simp [hresp, slaveObeys, (hidle hdpt).1]
    | some x =>
      have hresp : c.resp m = c.portResp m x := by simp [Cycle.resp, ISReg.response, hheld, hdpt]
      cases x with
      | slave n =>
        have hn : n < c.st.cfg.ns := by simpa [knownTarget, hdpt] using hknown
        obtain ⟨-, hsame, herr⟩ := hslave n hdpt
        rw [hresp, portResp_slave_of_owner c n m ((howner n hn).1 hdpt), slaveObeys_congr _ _ _ hsame herr]
        exact hstage n hn
      | dflt =>
        obtain ⟨hsome, herr⟩ := hdflt hdpt
        obtain ⟨x, hx⟩ := Option.isSome_iff_exists.1 hsome
        rw [hresp, portResp_dflt, hddowner, if_pos hdpt, if_pos rfl]
        cases hd : (c.st.master m).dflt with
        | idle => exact absurd hd (hdefault.1 hdpt)
        | err1 =>
          simp [slaveObeys, hx, herr, hd, DefPhase.response, widthOf, readWidth_of_not_success]
        | err2 =>
          simp [slaveObeys, hx, herr, hd, DefPhase.response, widthOf, readWidth_of_not_success]

theorem masterLink_silent (m : Nat) (hm : m < c.st.cfg.nm) :
    LinkSilent c.st.cfg.w16 (c.st.masterMonitor m) (c.masterWire m) := by
  have hresp := resp_obeys c hvalid hinv hobey m hm
  obtain ⟨-, -, hmasterLinks, -⟩ := hinv
  obtain ⟨hsize, hhold, hphase⟩ := (masterLink_iff c.st m).1 (hmasterLinks m hm)
  refine linkSilent_of_obeys _ _ _ hsize (fun hidle => ?_) hresp (hobey.1 m hm)
  cases hheld : (c.st.master m).is.held with
  | some h => exact (hhold h hheld).2
  | none =>
    obtain ⟨hslave, hdflt, hnone⟩ := hphase hheld
    match hdpt : (c.st.master m).is.dpt with
    | none => exact (hnone hdpt).2
    | some (.slave n) => simpa [hidle] using (hslave n hdpt).1
    | some .dflt => simpa [hidle] using (hdflt hdpt).1

/-- So the cycle stops for a fatal fault or not at all (R394, R399). -/
theorem stop_of_obeys :
    c.stop = (c.masterIds.findSome? c.stageFault).or (c.slaveIds.findSome? c.lineFault) := by
  have hm (f : Nat → Option Fault) := findSome?_range_none f c.st.cfg.nm
  have hs (f : Nat → Option Fault) := findSome?_range_none f c.st.cfg.ns
  have hports n hn := (chain_lawful c hvalid hinv hobey n hn).1
  have hwires n hn := (chain_lawful c hvalid hinv hobey n hn).2
  have hlinks m hm := masterLink_silent c hvalid hinv hobey m hm
  simp only [Cycle.stop, Cycle.masterIds, Cycle.slaveIds,
    hs _ (strayResponse_none_of_obeys c hvalid hinv hobey),
    hs _ fun n hn => (adapterViolation_none c .idleResponse _ n).2 fun p hp => (hports n hn p hp).idleResponse,
    hm _ fun m _ => missingGrant_eq_none c m,
    hs _ fun n hn => (adapterViolation_none c .widthMismatch _ n).2 fun p hp => (hports n hn p hp).widthMismatch,
    hm _ fun m hm => (masterMonViolation_none c .widthMismatch _ m).2 (hlinks m hm).1,
    hs _ fun n hn => chainMonViolation_none_of_wires c .widthMismatch _ n fun i w hw => (hwires n hn i w hw).1,
    hs _ fun n hn => foreignMaster_eq_none c n hvalid hn,
    hs _ fun n hn => (adapterViolation_none c .errorSequence _ n).2 fun p hp => (hports n hn p hp).errorSequence,
    hm _ fun m hm => (masterMonViolation_none c .errorSequence _ m).2 (hlinks m hm).2,
    hs _ fun n hn => chainMonViolation_none_of_wires c .errorSequence _ n fun i w hw => (hwires n hn i w hw).2,
    Option.orElse_eq_orElse, Option.orElse_eq_or, Option.or_none]

end

/-! The stop of an instruction's cycle. -/

theorem isViolation_iff (o : Host.Outcome State Fault Refusal) :
    isViolation o = true ↔ ∃ v t p, o = .fault (.violation v t p) := by
  unfold isViolation
  split <;> simp

theorem driveMaster_fault (s : State) (b : M2S) (f : Fault) (h : driveMaster s b = .fault f) :
    runCycle s (s.input.drive s.input.port b) = .fault f := by
  unfold driveMaster at h
  split at h
  · exact h
  · cases h

theorem driveSlave_fault (s : State) (r : Resp) (f : Fault) (h : driveSlave s r = .fault f) :
    runCycle s (s.input.answer s.input.port r) = .fault f := by
  unfold driveSlave at h
  split at h
  · exact h
  · cases h

theorem observeGrant_fault (s : State) (g : Grant) (f : Fault) (h : observeGrant s g = .fault f) :
    runCycle s s.input = .fault f := by
  unfold observeGrant at h
  split at h
  · split at h
    · split at h <;> cases h
    · cases h; assumption
    · cases h
  · cases h

/-- If an instruction stops, the cycle its inputs give stops so. -/
theorem exec_fault (i : Instr) (s : State) (f : Fault) (h : exec i s = .fault f) :
    runCycle s (cycleInput i s) = .fault f := by
  cases hb : commandBundle i with
  | some b =>
    rw [exec_of_commandBundle i b s hb] at h
    rw [cycleInput_of_commandBundle i b s hb]
    exact driveMaster_fault s b f h
  | none =>
    cases i with
    | success d => exact driveSlave_fault s _ f h
    | pending d => exact driveSlave_fault s _ f h
    | error1 d => exact driveSlave_fault s _ f h
    | error2 d => exact driveSlave_fault s _ f h
    | grant => exact observeGrant_fault s _ f h
    | deny => exact observeGrant_fault s _ f h
    | _ => cases hb

/-- Settles O19: what stops the cycle is raised by an input stage or a line buffer, whose faults are of class (b). -/
theorem obedientAgentsNoViolation : Obligations.ObedientAgentsNoViolation := by
  intro s i hinv hobey
  refine Bool.eq_false_iff.2 fun hviolation => ?_
  obtain ⟨v, t, p, hexec⟩ := (isViolation_iff _).1 hviolation
  obtain ⟨hvalid, hstop⟩ := runCycle_fault s _ _ (exec_fault i s _ hexec)
  rw [stop_of_obeys _ hvalid hinv hobey] at hstop
  obtain hstage | ⟨-, hline⟩ := Option.or_eq_some_iff.1 hstop
  · obtain ⟨m, -, hfault⟩ := List.exists_of_findSome?_eq_some hstage
    obtain ⟨name, -, hfatal⟩ := Option.map_eq_some_iff.1 hfault
    cases hfatal
  · obtain ⟨n, -, hfault⟩ := List.exists_of_findSome?_eq_some hline
    obtain ⟨ap, -, hfatal⟩ := Option.map_eq_some_iff.1 hfault
    cases hfatal

/-! No cause of a fatal fault (R392). -/

/-- No line buffer samples a write while none is on its way to it, from above or out of a write buffer (R293). -/
theorem adapterFatal_none_of_noWrite (q : SlaveRegs) (as : List Adapter) (u : M2S) (r : Resp)
    (hnone : hasLineBuffer as = true → NoWrite u.ap ∧ ∀ x, optXfer q.wb.held = some x → x.write = false) :
    ∀ p ∈ chainPorts q as u r, adapterFatal q p = none := by
  rintro ⟨a, v, rd⟩ hp
  cases a with
  | wb => rfl
  | lb L e =>
    obtain ⟨hu, hheld⟩ := hnone (hasLineBuffer_of_mem L e as (mem_of_chainPorts q as u r _ hp))
    obtain ⟨hports, -⟩ := apAll_chain (fun x => x.write = false) q as u r (fun _ _ _ _ _ => rfl) (fun _ => hheld) hu
    simp [adapterFatal, lb_writeSampled_of_noWrite q.lb L v.ap rd (hports _ hp)]

/-- An input stage checks its master's own committed transfer and nothing else (R245). -/
theorem stageFault_none_of_driven_passes (c : Cycle) (m : Nat)
    (h : (c.st.master m).is.held = none → c.committed m = true →
      ∀ x ∈ xferOf (c.driven m).ap, checkAll c.st.cfg m x = none) : c.stageFault m = none := by
  cases hheld : (c.st.master m).is.held with
  | some a => simp [Cycle.stageFault, ISReg.fault, hheld]
  | none =>
    cases hcommitted : c.committed m with
    | false => simp [Cycle.stageFault, ISReg.fault, hheld, hcommitted]
    | true =>
      refine stageFault_none_of_passes c m fun x hx => h hheld hcommitted x ?_
      rwa [cand_of_not_held c m hheld, xferOf_ready, xferOf_asMasterAP] at hx

theorem stop_none_of_no_fatal_cause (c : Cycle) (hvalid : validCfg c.st.cfg = true)
    (hinv : Sys2Proof.Machine.Invariant c.st) (hobey : AgentsObey c) (hcause : NoFatalCause c) : c.stop = none := by
  obtain ⟨hpasses, hnoWrite⟩ := hcause
  rw [stop_of_obeys c hvalid hinv hobey, Option.or_eq_none_iff]
  refine ⟨findSome?_range_none _ _ fun m hm => stageFault_none_of_driven_passes c m (hpasses m hm),
    findSome?_range_none _ _ fun n hn => (lineFault_none c n).2 ?_⟩
  exact adapterFatal_none_of_noWrite _ _ _ _ (hnoWrite n hn)

/-- Settles O20: the cycle the instruction runs has nothing to stop for. -/
theorem commandsAndResponsesComplete : Obligations.CommandsAndResponsesComplete := by
  intro s i hgrant hdeny hport hvalid hinv hobey hcause
  rw [exec_eq_runCycle i s hgrant hdeny hport]
  exact runCycle_of_no_stop s _ hvalid (stop_none_of_no_fatal_cause _ hvalid hinv hobey hcause)

end Sys2Proof.Machine
end
